-- ==== Sys2Proof/Word.lean ====
section
/-! DEFINITION. The word types of the UBTU: the byte, the command word and the unum bit string. -/

namespace Sys2Proof

/-- One byte of the operand buffer (20_memory.md R50). -/
abbrev Byte := BitVec 8

/-- One command word, the value the host writes to CMD (30_encoding.md R70). -/
abbrev Word := BitVec 32

/-- A unum bit string, read as the natural number with bit `i` of weight `2^i` (00_scope.md R7).
The register width `W` is a build parameter (00_scope.md R5), so the bound `< 2^W` is part of the
machine's invariant and not of this type; the arithmetic of the rules on unums is on unbounded
naturals (41_tag.md R127). -/
abbrev Unum := Nat

end Sys2Proof
end

