-- ==== Sys2Proof/Syntax.lean ====
section
/-! DEFINITION. The commands of the UBTU: one constructor per row of spec/opcode_table.json
(30_encoding.md R76). -/

namespace Sys2Proof

/-- Index of a U register, U0..U7 (10_state.md R31). -/
abbrev UReg := Fin 8

/-- Index of a B register, B0..B3 (10_state.md R31). -/
abbrev BReg := Fin 4

/-- Index of a G register, G0..G3 (10_state.md R31). -/
abbrev GReg := Fin 4

/-- The 12-bit immediate: a buffer byte address or a constant id (30_encoding.md R71). -/
abbrev Imm := BitVec 12

/-- The 38 commands of 30_encoding.md R76, with the operands in the order of the assembler syntax
(R77): destination first. -/
inductive Instr where
  | nop
  | setenv (ess fss : BitVec 4)
  | clrenv
  | clrerr
  | ldc (rd : UReg) (id : Imm)
  | movu (rd ra : UReg)
  | movb (rd ra : BReg)
  | movg (rd ra : GReg)
  | mkb (rd : BReg) (ra rb : UReg) (pair : Bool)
  | getl (rd : UReg) (ra : BReg)
  | getr (rd : UReg) (ra : BReg)
  | ldu (rd : UReg) (addr : Imm)
  | stu (ra : UReg) (addr : Imm)
  | ldb (rd : BReg) (addr : Imm)
  | stb (ra : BReg) (addr : Imm)
  | dtag (ra : UReg)
  | etag (rd : UReg)
  | promf (rd ra : UReg)
  | prome (rd ra : UReg)
  | demf (rd ra : UReg)
  | deme (rd ra : UReg)
  | promp (rd ra : UReg)
  | u2g (rd : GReg) (ra : UReg)
  | b2g (rd : GReg) (ra : BReg)
  | encl (rd : UReg) (ra : GReg)
  | encr (rd : UReg) (ra : GReg)
  | pack (rd : BReg) (ra : GReg)
  | clt (ra rb : GReg)
  | cgt (ra rb : GReg)
  | cneq (ra rb : GReg)
  | cseq (ra rb : GReg)
  | cidn (ra rb : GReg)
  | min (rd ra rb : GReg)
  | max (rd ra rb : GReg)
  | clipl (rd ra rb : GReg)
  | cliph (rd ra rb : GReg)
  | negg (rd ra : GReg)
  | unify (rd ra : BReg)
  deriving DecidableEq, Repr

end Sys2Proof
end

