-- ==== Sys2Proof/WellFormed.lean ====
section
/-! DEFINITION. Which commands an encoding admits, beyond what the operand types of `Instr` already
say (a register index below its file's count, a 4-bit size, a 12-bit immediate). -/

namespace Sys2Proof

/-- The `rb` field of a singleton MKB (`pair = 0`) must be 0 (40_env_move.md R98, 30_encoding.md R73).
Every other command is well formed for all its operands. -/
def Instr.wf : Instr → Bool
  | .mkb _ _ rb pair => pair || rb == 0
  | .nop | .setenv _ _ | .clrenv | .clrerr | .ldc _ _ | .movu _ _ | .movb _ _ | .movg _ _
  | .getl _ _ | .getr _ _ | .ldu _ _ | .stu _ _ | .ldb _ _ | .stb _ _ | .dtag _ | .etag _
  | .promf _ _ | .prome _ _ | .demf _ _ | .deme _ _ | .promp _ _ | .u2g _ _ | .b2g _ _
  | .encl _ _ | .encr _ _ | .pack _ _ | .clt _ _ | .cgt _ _ | .cneq _ _ | .cseq _ _ | .cidn _ _
  | .min _ _ _ | .max _ _ _ | .clipl _ _ _ | .cliph _ _ _ | .negg _ _ | .unify _ _ => true

end Sys2Proof
end

