-- ==== Sys2Proof/Decode.lean ====
section
/-! DEFINITION. The command decoder and encoder (30_encoding.md R70 to R76, R78). -/

namespace Sys2Proof

/-- `v[lo+n-1 : lo]`, the `n` bits of `v` from bit `lo` up, as a natural (00_scope.md R7: empty, value
0, when `n = 0`). -/
def slice (v lo n : Nat) : Nat :=
  v / 2 ^ lo % 2 ^ n

/-- Why a word is illegal (30_encoding.md R73 steps 3 and 4, R74). All raise E_ILLEGAL. -/
inductive Illegal where
  /-- the opcode is not in the table of R76 -/
  | reservedOpcode
  /-- a field the opcode does not use is nonzero -/
  | unusedField
  /-- a register index is at or above its file's count -/
  | registerIndex
  /-- `imm` breaks R71 -/
  | immediate
  deriving DecidableEq, Repr

/-- The fields of a command word (30_encoding.md R70). -/
structure Fields where
  op : Nat
  rd : Nat
  ra : Nat
  rb : Nat
  imm : Nat
  deriving DecidableEq, Repr

/-- Splitting a word into its fields (30_encoding.md R70). -/
def fieldsOf (w : Word) : Fields :=
  { op := slice w.toNat 24 8, rd := slice w.toNat 20 4, ra := slice w.toNat 16 4,
    rb := slice w.toNat 12 4, imm := slice w.toNat 0 12 }

/-- What decoding a word gives. -/
abbrev Decoded := Except Illegal Instr

/-- A register field the opcode does not use must be 0 (30_encoding.md R73 step 4). -/
def unused (x : Nat) (k : Decoded) : Decoded :=
  if x = 0 then k else .error .unusedField

/-- A U register field (30_encoding.md R74). -/
def uReg (x : Nat) (k : UReg → Decoded) : Decoded :=
  if h : x < 8 then k ⟨x, h⟩ else .error .registerIndex

/-- A B or G register field (30_encoding.md R74). -/
def reg4 (x : Nat) (k : Fin 4 → Decoded) : Decoded :=
  if h : x < 4 then k ⟨x, h⟩ else .error .registerIndex

/-- The immediate of a command that uses none (30_encoding.md R71: "Every other command requires
`imm = 0`"). -/
def noImm (f : Fields) (k : Decoded) : Decoded :=
  if f.imm = 0 then k else .error .immediate

/-- The 12-bit immediate of LDC, LDU, STU, LDB and STB (30_encoding.md R71). -/
def immOf (f : Fields) : Imm :=
  BitVec.ofNat 12 f.imm

/-- The immediate of SETENV: `imm[7:4] = ess`, `imm[3:0] = fss`, `imm[11:8]` 0 (30_encoding.md R71). -/
def setenvOf (f : Fields) : Decoded :=
  if slice f.imm 8 4 = 0 then .ok (.setenv (BitVec.ofNat 4 (slice f.imm 4 4)) (BitVec.ofNat 4 (slice f.imm 0 4)))
  else .error .immediate

/-- The `rb` field and immediate of MKB: `imm[0]` the pair flag, `imm[11:1]` 0 (30_encoding.md R71), and
`rb` 0 when the pair flag is 0 (40_env_move.md R98). -/
def mkbOf (f : Fields) (rd : BReg) (ra : UReg) : Decoded :=
  uReg f.rb fun rb =>
    if slice f.imm 1 11 ≠ 0 then .error .immediate
    else if slice f.imm 0 1 = 1 then .ok (.mkb rd ra rb true)
    else unused f.rb (.ok (.mkb rd ra rb false))

/-- The opcode map of 30_encoding.md R76, total on all words (R75). -/
def decodeFields (f : Fields) : Decoded :=
  match f.op with
  | 0x00 => unused f.rd <| unused f.ra <| unused f.rb <| noImm f <| .ok .nop
  | 0x01 => unused f.rd <| unused f.ra <| unused f.rb <| setenvOf f
  | 0x02 => unused f.rd <| unused f.ra <| unused f.rb <| noImm f <| .ok .clrenv
  | 0x03 => unused f.rd <| unused f.ra <| unused f.rb <| noImm f <| .ok .clrerr
  | 0x08 => uReg f.rd fun rd => unused f.ra <| unused f.rb <| .ok (.ldc rd (immOf f))
  | 0x09 => uReg f.rd fun rd => uReg f.ra fun ra => unused f.rb <| noImm f <| .ok (.movu rd ra)
  | 0x0A => reg4 f.rd fun rd => reg4 f.ra fun ra => unused f.rb <| noImm f <| .ok (.movb rd ra)
  | 0x0B => reg4 f.rd fun rd => reg4 f.ra fun ra => unused f.rb <| noImm f <| .ok (.movg rd ra)
  | 0x0C => reg4 f.rd fun rd => uReg f.ra fun ra => mkbOf f rd ra
  | 0x0D => uReg f.rd fun rd => reg4 f.ra fun ra => unused f.rb <| noImm f <| .ok (.getl rd ra)
  | 0x0E => uReg f.rd fun rd => reg4 f.ra fun ra => unused f.rb <| noImm f <| .ok (.getr rd ra)
  | 0x10 => uReg f.rd fun rd => unused f.ra <| unused f.rb <| .ok (.ldu rd (immOf f))
  | 0x11 => unused f.rd <| uReg f.ra fun ra => unused f.rb <| .ok (.stu ra (immOf f))
  | 0x12 => reg4 f.rd fun rd => unused f.ra <| unused f.rb <| .ok (.ldb rd (immOf f))
  | 0x13 => unused f.rd <| reg4 f.ra fun ra => unused f.rb <| .ok (.stb ra (immOf f))
  | 0x20 => unused f.rd <| uReg f.ra fun ra => unused f.rb <| noImm f <| .ok (.dtag ra)
  | 0x21 => uReg f.rd fun rd => unused f.ra <| unused f.rb <| noImm f <| .ok (.etag rd)
  | 0x22 => uReg f.rd fun rd => uReg f.ra fun ra => unused f.rb <| noImm f <| .ok (.promf rd ra)
  | 0x23 => uReg f.rd fun rd => uReg f.ra fun ra => unused f.rb <| noImm f <| .ok (.prome rd ra)
  | 0x24 => uReg f.rd fun rd => uReg f.ra fun ra => unused f.rb <| noImm f <| .ok (.demf rd ra)
  | 0x25 => uReg f.rd fun rd => uReg f.ra fun ra => unused f.rb <| noImm f <| .ok (.deme rd ra)
  | 0x26 => uReg f.rd fun rd => uReg f.ra fun ra => unused f.rb <| noImm f <| .ok (.promp rd ra)
  | 0x30 => reg4 f.rd fun rd => uReg f.ra fun ra => unused f.rb <| noImm f <| .ok (.u2g rd ra)
  | 0x31 => reg4 f.rd fun rd => reg4 f.ra fun ra => unused f.rb <| noImm f <| .ok (.b2g rd ra)
  | 0x32 => uReg f.rd fun rd => reg4 f.ra fun ra => unused f.rb <| noImm f <| .ok (.encl rd ra)
  | 0x33 => uReg f.rd fun rd => reg4 f.ra fun ra => unused f.rb <| noImm f <| .ok (.encr rd ra)
  | 0x34 => reg4 f.rd fun rd => reg4 f.ra fun ra => unused f.rb <| noImm f <| .ok (.pack rd ra)
  | 0x40 => unused f.rd <| reg4 f.ra fun ra => reg4 f.rb fun rb => noImm f <| .ok (.clt ra rb)
  | 0x41 => unused f.rd <| reg4 f.ra fun ra => reg4 f.rb fun rb => noImm f <| .ok (.cgt ra rb)
  | 0x42 => unused f.rd <| reg4 f.ra fun ra => reg4 f.rb fun rb => noImm f <| .ok (.cneq ra rb)
  | 0x43 => unused f.rd <| reg4 f.ra fun ra => reg4 f.rb fun rb => noImm f <| .ok (.cseq ra rb)
  | 0x44 => unused f.rd <| reg4 f.ra fun ra => reg4 f.rb fun rb => noImm f <| .ok (.cidn ra rb)
  | 0x48 => reg4 f.rd fun rd => reg4 f.ra fun ra => reg4 f.rb fun rb => noImm f <| .ok (.min rd ra rb)
  | 0x49 => reg4 f.rd fun rd => reg4 f.ra fun ra => reg4 f.rb fun rb => noImm f <| .ok (.max rd ra rb)
  | 0x4A => reg4 f.rd fun rd => reg4 f.ra fun ra => reg4 f.rb fun rb => noImm f <| .ok (.clipl rd ra rb)
  | 0x4B => reg4 f.rd fun rd => reg4 f.ra fun ra => reg4 f.rb fun rb => noImm f <| .ok (.cliph rd ra rb)
  | 0x4C => reg4 f.rd fun rd => reg4 f.ra fun ra => unused f.rb <| noImm f <| .ok (.negg rd ra)
  | 0x50 => reg4 f.rd fun rd => reg4 f.ra fun ra => unused f.rb <| noImm f <| .ok (.unify rd ra)
  | _ => .error .reservedOpcode

/-- The decoder: every 32-bit word selects one command with legal fields or is illegal, by name
(30_encoding.md R75). -/
def decode (w : Word) : Decoded :=
  decodeFields (fieldsOf w)

/-- The opcode of CLRERR, the one command executed while STATUS.ERR = 1 (30_encoding.md R73 step 2). -/
def opClrerr : Nat := 0x03

/-- The opcode of a latched word (30_encoding.md R70). -/
def opOf (w : Word) : Nat :=
  (fieldsOf w).op

/-- `op << 24 | rd << 20 | ra << 16 | rb << 12 | imm` (30_encoding.md R78). -/
def joinFields (op rd ra rb imm : Nat) : Word :=
  BitVec.ofNat 32 (op * 2 ^ 24 + rd * 2 ^ 20 + ra * 2 ^ 16 + rb * 2 ^ 12 + imm)

/-- The encoder: the word of a command (30_encoding.md R76, R78). -/
def encode : Instr → Word
  | .nop => joinFields 0x00 0 0 0 0
  | .setenv ess fss => joinFields 0x01 0 0 0 (ess.toNat * 2 ^ 4 + fss.toNat)
  | .clrenv => joinFields 0x02 0 0 0 0
  | .clrerr => joinFields 0x03 0 0 0 0
  | .ldc rd id => joinFields 0x08 rd 0 0 id.toNat
  | .movu rd ra => joinFields 0x09 rd ra 0 0
  | .movb rd ra => joinFields 0x0A rd ra 0 0
  | .movg rd ra => joinFields 0x0B rd ra 0 0
  | .mkb rd ra rb pair => joinFields 0x0C rd ra rb pair.toNat
  | .getl rd ra => joinFields 0x0D rd ra 0 0
  | .getr rd ra => joinFields 0x0E rd ra 0 0
  | .ldu rd addr => joinFields 0x10 rd 0 0 addr.toNat
  | .stu ra addr => joinFields 0x11 0 ra 0 addr.toNat
  | .ldb rd addr => joinFields 0x12 rd 0 0 addr.toNat
  | .stb ra addr => joinFields 0x13 0 ra 0 addr.toNat
  | .dtag ra => joinFields 0x20 0 ra 0 0
  | .etag rd => joinFields 0x21 rd 0 0 0
  | .promf rd ra => joinFields 0x22 rd ra 0 0
  | .prome rd ra => joinFields 0x23 rd ra 0 0
  | .demf rd ra => joinFields 0x24 rd ra 0 0
  | .deme rd ra => joinFields 0x25 rd ra 0 0
  | .promp rd ra => joinFields 0x26 rd ra 0 0
  | .u2g rd ra => joinFields 0x30 rd ra 0 0
  | .b2g rd ra => joinFields 0x31 rd ra 0 0
  | .encl rd ra => joinFields 0x32 rd ra 0 0
  | .encr rd ra => joinFields 0x33 rd ra 0 0
  | .pack rd ra => joinFields 0x34 rd ra 0 0
  | .clt ra rb => joinFields 0x40 0 ra rb 0
  | .cgt ra rb => joinFields 0x41 0 ra rb 0
  | .cneq ra rb => joinFields 0x42 0 ra rb 0
  | .cseq ra rb => joinFields 0x43 0 ra rb 0
  | .cidn ra rb => joinFields 0x44 0 ra rb 0
  | .min rd ra rb => joinFields 0x48 rd ra rb 0
  | .max rd ra rb => joinFields 0x49 rd ra rb 0
  | .clipl rd ra rb => joinFields 0x4A rd ra rb 0
  | .cliph rd ra rb => joinFields 0x4B rd ra rb 0
  | .negg rd ra => joinFields 0x4C rd ra 0 0
  | .unify rd ra => joinFields 0x50 rd ra 0 0

/-- The word of an opcode-table row: bits `nbits-1 .. 0` of `w`, every higher bit 0. A command is one
32-bit register value and is never stored in memory, so there is no byte order to lay it out in
(30_encoding.md R70, 20_memory.md R62). -/
def tableWord (nbits w : Nat) : Word :=
  BitVec.ofNat 32 (w % 2 ^ nbits)

/-- The command the decoder reads from an opcode-table row's bits. -/
def decodeTableWord (nbits w : Nat) : Option Instr :=
  match decode (tableWord nbits w) with
  | .ok i => some i
  | .error _ => none

end Sys2Proof
end

