-- ==== Sys2Proof/Config.lean ====
section
/-! DEFINITION. What an implementation of the UBTU fixes (the OPEN build parameters of 00_scope.md R5)
and the free values: what the spec leaves open. -/

namespace Sys2Proof

/-- The build parameters of 00_scope.md R5, "fixed when the hardware is built". The register counts
`NU`, `NB`, `NG` are 8, 4, 4 and stand in the types of the register files. -/
structure Config where
  /-- `ESS_CAP`, the largest `ess` the hardware accepts. -/
  essCap : Nat
  /-- `FSS_CAP`, the largest `fss` the hardware accepts. -/
  fssCap : Nat
  /-- `GMW`, the width of the significand of a gnum value. -/
  gmw : Nat
  /-- `GEW`, the width of the signed exponent of a gnum value. -/
  gew : Nat
  /-- `BUFSZ`, the bytes in the operand buffer. -/
  bufsz : Nat
  deriving DecidableEq, Repr

/-- `W`, the width of a U register (00_scope.md R5). -/
def Config.width (c : Config) : Nat :=
  2 + 2 ^ c.essCap + 2 ^ c.fssCap + c.essCap + c.fssCap

/-- A legal build: the bounds 00_scope.md R5 puts on `GMW`, `GEW` and `BUFSZ`, and the bounds on the
caps that the register formats need.
DEDUCED (unsafe, log 2): TAG.ES and TAG.FS hold the sizes themselves in 5 and 12 bits
(10_state.md R35), so `2^ESS_CAP ≤ 31` and `2^FSS_CAP ≤ 4095`. -/
abbrev Config.wf (c : Config) : Prop :=
  c.essCap ≤ 4 ∧ c.fssCap ≤ 11 ∧ 2 ^ c.fssCap + 1 ≤ c.gmw ∧ 1 ≤ c.gew ∧
  2 ^ (2 ^ c.essCap - 1) + 2 ^ c.fssCap ≤ 2 ^ (c.gew - 1) ∧
  2 ^ (2 ^ c.essCap - 1) + 2 ≤ 2 ^ (c.gew - 1) ∧
  1 ≤ c.bufsz ∧ c.bufsz ≤ 4096

/-- The build `State.reset` stands for.
DESIGN CHOICE (unsafe, log 1): the caps 4 and 11 are the spec's suggestion (00_scope.md R5), `GMW` and
`GEW` the least widths R5 allows at those caps, `BUFSZ` the 64 of the spec's own test vectors
(95_test_vectors.md sections 4, 9 and 10). -/
def Config.build : Config :=
  { essCap := 4, fssCap := 11, gmw := 2049, gew := 17, bufsz := 64 }

/-- FREE VALUE (safe, log 4). Which agent moves first at the `n`-th step at which the unit has a
command in flight and the host has an access to make: `true` for the host. 70_reset_and_hazards.md
R265: "the access happens either wholly before or wholly after UnitStep, the choice left open". -/
opaque Config.hostFirst : Nat → Bool

/-- FREE VALUE (safe, log 8). Which of a number's encodings the unit writes where the normalised one does not
fit the register's widths and another does, as a function of the normalised significand and exponent. The
number is held exactly (10_state.md R27); the spec states no encoding there. -/
opaque Config.unfitShift : Nat → Int → Nat

/-- FREE VALUE (safe, log 8). The significand the unit writes for a number that has no encoding in the
register's widths at all, which only a build below the bounds of 00_scope.md R5 meets. The spec states no
result there. -/
opaque Config.unfitMan : Nat → Int → Nat

/-- FREE VALUE (safe, log 8). The exponent the unit writes in the case of `Config.unfitMan`. -/
opaque Config.unfitExp : Nat → Int → Int

end Sys2Proof
end

