-- ==== Sys2Proof/Machine/State.lean ====
section
/-! DEFINITION. The state of the UBTU as plain data (10_state.md), its reset value (70_reset_and_hazards.md
R260), and the closed lists of reasons a step could stop for. -/

namespace Sys2Proof.Machine

/-- The environment register ENV (10_state.md R21). -/
structure Env where
  /-- `ENV.V`: an environment is established -/
  v : Bool
  /-- `ENV.ESS`: log2 of the maximum exponent-field width -/
  ess : BitVec 4
  /-- `ENV.FSS`: log2 of the maximum fraction-field width -/
  fss : BitVec 4
  deriving DecidableEq, Repr

/-- The STATUS register (10_state.md R34): bits 0 to 3 control bits, bits 4 to 9 result flags. Bits 10 to 15
hold nothing and read 0. -/
structure Status where
  busy : Bool
  err : Bool
  fatal : Bool
  ovr : Bool
  t : Bool
  clip : Bool
  inex : Bool
  lim : Bool
  uni : Bool
  nanf : Bool
  deriving DecidableEq, Repr

/-- The decoded-tag port TAG (10_state.md R35). Bit 19 holds nothing and reads 0. -/
structure Tag where
  /-- bits 11:0, the fraction size itself -/
  fs : BitVec 12
  /-- bits 16:12, the exponent size itself -/
  es : BitVec 5
  /-- bit 17, the uncertainty bit -/
  ub : Bool
  /-- bit 18, the sign bit -/
  sg : Bool
  /-- bits 31:20, `numbits`; read only to the host -/
  nb : BitVec 12
  deriving DecidableEq, Repr

/-- The unification controller's report UCTL (10_state.md R38). Bits 31:22 hold nothing and read 0. -/
structure Uctl where
  /-- bits 3:0, the exit code of 44_unify.md R211 -/
  exit : BitVec 4
  /-- bits 8:4, exponent demotion steps accepted -/
  eiter : BitVec 5
  /-- bits 20:9, fraction demotion steps accepted -/
  fiter : BitVec 12
  /-- bit 21, the negated mirror was used -/
  neg : Bool
  deriving DecidableEq, Repr

/-- An exact dyadic number in the encoding of a G register, `(-1)^sg * man * 2^exp` (10_state.md R27). Two
encodings of one number are the same value; every rule reads the number. The widths `GMW` and `GEW` are
build parameters, so they are part of the machine's invariant and not of this type. -/
structure Dyad where
  sg : Bool
  man : Nat
  exp : Int
  deriving DecidableEq, Repr

/-- One endpoint of an interval (10_state.md R27). When `inf` is set only the sign of `val` counts. -/
structure Gnum where
  val : Dyad
  opn : Bool
  inf : Bool
  deriving DecidableEq, Repr

/-- A general interval, the content of a G register (10_state.md R27). -/
structure Gbnd where
  nan : Bool
  l : Gnum
  r : Gnum
  deriving DecidableEq, Repr

/-- A ubound, the content of a B register (10_state.md R30): the singleton of `l` when `p` is false, the
pair `l`, `r` when it is true. -/
structure Ubound where
  p : Bool
  l : Unum
  r : Unum
  deriving DecidableEq, Repr

/-- The operand buffer (20_memory.md R50) as the list of its bytes that differ from the reset value, in
rising address order. -/
abbrev Memory := List Host.Cell

/-- What a byte the list does not name reads as: the reset contents, 0 (20_memory.md R50, 70 R260). -/
def Memory.unlisted : Byte := 0

/-- The canonical form: addresses strictly rising and no entry equal to what an unlisted address reads as,
so that equal buffers are equal lists. -/
abbrev Memory.wf (m : Memory) : Prop :=
  m.Pairwise (fun x y => x.1 < y.1) ∧ ∀ c ∈ m, c.2 ≠ Memory.unlisted

/-- The errors a command can raise (60_exceptions.md R242). `config` is raised by SETENV's fatal arm only. -/
inductive ErrCode where
  | illegal
  | noEnv
  | field
  | operand
  | range
  | config
  deriving DecidableEq, Repr

/-- What the outside world can do to the machine: the host's accesses to its port (10_state.md R33,
70_reset_and_hazards.md R264), its WAIT (R264), and the platform's reset input (R260). -/
inductive HostAction where
  /-- `HostRead(addr)` -/
  | read (addr : Nat)
  /-- `HostWrite(addr, value)` -/
  | write (addr value : Nat)
  /-- `WAIT`: read STATUS until BUSY = 0 -/
  | wait
  /-- the reset input is asserted -/
  | reset
  deriving DecidableEq, Repr

/-- The whole state. `cfg`, `hostIn`, `hostOut` and `tick` are the model's own fields (logs 1, 3, 4); every
other field is named by 10_state.md or 20_memory.md. There is no program counter (10_state.md R32). -/
structure State where
  /-- the build parameters, fixed for the machine (00_scope.md R5) -/
  cfg : Config
  env : Env
  status : Status
  /-- ERRCODE (60_exceptions.md R242) -/
  errcode : BitVec 8
  /-- the latched command word (10_state.md R40) -/
  cmd : Word
  tag : Tag
  /-- FEXP, `2^ESS_CAP` bits (10_state.md R36) -/
  fexp : Nat
  /-- FFRAC, `2^FSS_CAP` bits (10_state.md R37) -/
  ffrac : Nat
  uctl : Uctl
  /-- U0..U7 (10_state.md R31) -/
  u : Vector Unum 8
  /-- B0..B3 (10_state.md R31) -/
  b : Vector Ubound 4
  /-- G0..G3 (10_state.md R31) -/
  g : Vector Gbnd 4
  /-- BUF (20_memory.md R50) -/
  buf : Memory
  /-- the host's pending actions, oldest first -/
  hostIn : List HostAction
  /-- the values the host port has returned, newest first -/
  hostOut : List Nat
  /-- how many open choices of who moves first have been taken -/
  tick : Nat
  deriving DecidableEq, Repr

/-- The reasons a step could stop with a fault: none. 70_reset_and_hazards.md R263: "The step is total and
deterministic: for every state with BUSY = 1 there is exactly one next state"; every misuse is the error
latch or the fatal state of 60_exceptions.md, which are next states. Safe: a type with no value excludes
nothing the spec allows. -/
inductive Fault
  deriving DecidableEq, Repr

/-- The reasons a step could be refused. -/
inductive Refusal where
  /-- Raised by no one: the form of exec keeps this name for a command without a meaning, and every command
  of the table has one. Safe. -/
  | notModelled (mnemonic : String)
  deriving DecidableEq, Repr

/-- Reset value of ENV: no environment (70_reset_and_hazards.md R260). -/
def Env.init : Env := { v := false, ess := 0, fss := 0 }

/-- Reset value of STATUS (70_reset_and_hazards.md R260). -/
def Status.init : Status :=
  { busy := false, err := false, fatal := false, ovr := false, t := false, clip := false, inex := false,
    lim := false, uni := false, nanf := false }

/-- Reset value of TAG (10_state.md R35). -/
def Tag.init : Tag := { fs := 0, es := 0, ub := false, sg := false, nb := 0 }

/-- Reset value of UCTL (10_state.md R38). -/
def Uctl.init : Uctl := { exit := 0, eiter := 0, fiter := 0, neg := false }

/-- The number 0 in its normalised encoding (10_state.md R27). -/
def Dyad.zero : Dyad := { sg := false, man := 0, exp := 0 }

/-- Reset value of an endpoint: val 0, open 0, inf 0 (10_state.md R31). -/
def Gnum.init : Gnum := { val := Dyad.zero, opn := false, inf := false }

/-- Reset value of a G register: the closed point [0, 0] (10_state.md R31). -/
def Gbnd.init : Gbnd := { nan := false, l := Gnum.init, r := Gnum.init }

/-- Reset value of a B register (10_state.md R31). -/
def Ubound.init : Ubound := { p := false, l := 0, r := 0 }

/-- The state after reset of a UBTU built with parameters `c` (70_reset_and_hazards.md R260). -/
def State.resetOf (c : Config) : State :=
  { cfg := c, env := Env.init, status := Status.init, errcode := 0, cmd := 0, tag := Tag.init,
    fexp := 0, ffrac := 0, uctl := Uctl.init, u := Vector.replicate 8 0,
    b := Vector.replicate 4 Ubound.init, g := Vector.replicate 4 Gbnd.init, buf := [],
    hostIn := [], hostOut := [], tick := 0 }

/-- The machine right after reset (70_reset_and_hazards.md R260), for the build of log 1. -/
def State.reset : State := State.resetOf Config.build

end Sys2Proof.Machine
end

