-- ==== Sys2Proof/Machine/Operands.lean ====
section
/-! DEFINITION. The unum format: the quantities of an environment (00_scope.md R6), field extraction and
assembly (10_state.md R23, 41_tag.md R120 to R126), the canonical form (10_state.md R24) and the distinguished
patterns (10_state.md R26). -/

namespace Sys2Proof.Machine

/-- `esmax = 2^ess` (00_scope.md R6). -/
def Env.esmax (E : Env) : Nat := 2 ^ E.ess.toNat

/-- `fsmax = 2^fss` (00_scope.md R6). -/
def Env.fsmax (E : Env) : Nat := 2 ^ E.fss.toNat

/-- `utagsize = 1 + ess + fss` (00_scope.md R6). -/
def Env.utagsize (E : Env) : Nat := 1 + E.ess.toNat + E.fss.toNat

/-- `maxubits` (00_scope.md R6). -/
def Env.maxubits (E : Env) : Nat := 2 + E.esmax + E.fsmax + E.ess.toNat + E.fss.toNat

/-- `ubitmask = 2^(utagsize-1)` (00_scope.md R6). -/
def Env.ubitmask (E : Env) : Nat := 2 ^ (E.utagsize - 1)

/-- `utagmask = 2^utagsize - 1` (00_scope.md R6). -/
def Env.utagmask (E : Env) : Nat := 2 ^ E.utagsize - 1

/-- `ulpu = 2^utagsize` (00_scope.md R6). -/
def Env.ulpu (E : Env) : Nat := 2 ^ E.utagsize

/-! ### Field extraction (10_state.md R23, 41_tag.md R120) -/

/-- `fs(u)`: the fraction-size field plus one. -/
def fsOf (E : Env) (u : Unum) : Nat := slice u 0 E.fss.toNat + 1

/-- `es(u)`: the exponent-size field plus one. -/
def esOf (E : Env) (u : Unum) : Nat := slice u E.fss.toNat E.ess.toNat + 1

/-- `ubit(u)`. -/
def ubitOf (E : Env) (u : Unum) : Bool := slice u (E.fss.toNat + E.ess.toNat) 1 == 1

/-- `frac(u)`. -/
def fracOf (E : Env) (u : Unum) : Nat := slice u E.utagsize (fsOf E u)

/-- `expo(u)`. -/
def expoOf (E : Env) (u : Unum) : Nat := slice u (E.utagsize + fsOf E u) (esOf E u)

/-- `sign(u)`. -/
def signOf (E : Env) (u : Unum) : Bool := slice u (E.utagsize + fsOf E u + esOf E u) 1 == 1

/-- `numbits(u)`. -/
def numbits (E : Env) (u : Unum) : Nat := E.utagsize + fsOf E u + esOf E u + 1

/-- `canon(u) = u[numbits(u)-1 : 0]` (10_state.md R24). -/
def canon (E : Env) (u : Unum) : Unum := slice u 0 (numbits E u)

/-- Field assembly (41_tag.md R121). -/
def mk (E : Env) (s : Bool) (e f : Nat) (ub : Bool) (es fs : Nat) : Unum :=
  (fs - 1) + (es - 1) * 2 ^ E.fss.toNat + ub.toNat * 2 ^ (E.fss.toNat + E.ess.toNat)
    + f * 2 ^ E.utagsize + e * 2 ^ (E.utagsize + fs) + s.toNat * 2 ^ (E.utagsize + fs + es)

/-- `bias(es) = 2^(es-1) - 1` (41_tag.md R122). -/
def bias (es : Nat) : Int := 2 ^ (es - 1) - 1

/-- `ones(n) = 2^n - 1` (10_state.md R26). -/
def ones (n : Nat) : Nat := 2 ^ n - 1

/-- `special(u)`: the maximum tag with an all-ones payload (41_tag.md R123). -/
def isSpecial (E : Env) (u : Unum) : Bool :=
  esOf E u == E.esmax && fsOf E u == E.fsmax && expoOf E u == ones E.esmax && fracOf E u == ones E.fsmax

/-- `isinf(u)` (10_state.md R26, 41_tag.md R123). -/
def isInf (E : Env) (u : Unum) : Bool := isSpecial E u && !ubitOf E u

/-- `isnan(u)` (10_state.md R26, 41_tag.md R123). -/
def isNan (E : Env) (u : Unum) : Bool := isSpecial E u && ubitOf E u

/-- `widest(es, fs)`, the payload of the largest finite magnitude of a tag (41_tag.md R124). -/
def widest (E : Env) (es fs : Nat) : Nat × Nat :=
  if es = E.esmax ∧ fs = E.fsmax then (ones es, ones fs - 1) else (ones es, ones fs)

/-- `iswidest(u)` (41_tag.md R124). -/
def isWidest (E : Env) (u : Unum) : Bool :=
  (expoOf E u, fracOf E u) == widest E (esOf E u) (fsOf E u)

/-- The sign bit of `u` set, for a `u` whose sign bit is 0 (42_pack.md R161, 44_unify.md R212 step 10). -/
def setSign (E : Env) (u : Unum) : Unum := u + 2 ^ (numbits E u - 1)

/-! ### Distinguished patterns (10_state.md R26, log 9) -/

/-- POSINF or NEGINF. -/
def infPattern (E : Env) (s : Bool) : Unum := mk E s (ones E.esmax) (ones E.fsmax) false E.esmax E.fsmax

/-- QNAN or SNAN. -/
def nanPattern (E : Env) (s : Bool) : Unum := mk E s (ones E.esmax) (ones E.fsmax) true E.esmax E.fsmax

/-- MAXREAL or NEGMAXREAL. -/
def maxrealPattern (E : Env) (s : Bool) : Unum := mk E s (ones E.esmax) (ones E.fsmax - 1) false E.esmax E.fsmax

/-- POSOPENINF or NEGOPENINF: MAXREAL or NEGMAXREAL with ubit 1. -/
def openInfPattern (E : Env) (s : Bool) : Unum := mk E s (ones E.esmax) (ones E.fsmax - 1) true E.esmax E.fsmax

/-- POSOPENZERO or NEGOPENZERO, the maximal-tag inexact zero. -/
def openZeroPattern (E : Env) (s : Bool) : Unum := mk E s 0 0 true E.esmax E.fsmax

/-- QNAN, the one NaN the unit produces (10_state.md R26). -/
def qnan (E : Env) : Unum := nanPattern E false

/-- `pattern(id)`, the table of 10_state.md R26; none for an id above 13. -/
def pattern (E : Env) (id : Nat) : Option Unum :=
  match id with
  | 0 => some (mk E false 0 0 false 1 1)
  | 1 => some (infPattern E false)
  | 2 => some (infPattern E true)
  | 3 => some (nanPattern E false)
  | 4 => some (nanPattern E true)
  | 5 => some (maxrealPattern E false)
  | 6 => some (maxrealPattern E true)
  | 7 => some (mk E false 0 1 false E.esmax E.fsmax)
  | 8 => some (mk E false 1 0 false E.esmax E.fsmax)
  | 9 => some (mk E false 0 (ones E.fsmax) false E.esmax E.fsmax)
  | 10 => some (openZeroPattern E false)
  | 11 => some (openZeroPattern E true)
  | 12 => some (openInfPattern E false)
  | 13 => some (openInfPattern E true)
  | _ => none

end Sys2Proof.Machine
end

