-- ==== Sys2Proof/Machine/Values.lean ====
section
/-! DEFINITION. Endpoint values and endpoints: exact dyadic arithmetic, the normalised encoding (10_state.md
R27), endpoint notation (42_pack.md R150), the total order on sided endpoints (43_compare_select.md R181 to
R185) and negation (R195). -/

namespace Sys2Proof.Machine

/-! ### Dyadic numbers (10_state.md R27) -/

/-- `2^k`. -/
def Dyad.pow2 (k : Int) : Dyad := { sg := false, man := 1, exp := k }

/-- Removing trailing zeros of a significand, at most `fuel` of them. -/
def oddPart : Nat → Nat → Int → Nat × Int
  | 0, m, e => (m, e)
  | k + 1, m, e => if m % 2 = 0 then oddPart k (m / 2) (e + 1) else (m, e)

/-- The normalised encoding of a number: `man` odd, or everything 0 (10_state.md R27). A nonzero `man` has
at most `log2 man` trailing zeros. -/
def Dyad.norm (x : Dyad) : Dyad :=
  if x.man = 0 then Dyad.zero
  else { sg := x.sg, man := (oddPart x.man.log2 x.man x.exp).1, exp := (oddPart x.man.log2 x.man x.exp).2 }

/-- `x < 0`. A zero is not negative, whatever its sign bit (10_state.md R27, 93 D40). -/
def Dyad.isNeg (x : Dyad) : Bool := x.sg && x.man != 0

/-- `x = 0`. -/
def Dyad.isZero (x : Dyad) : Bool := x.man == 0

/-- The number as an integer multiple of `2^m`, for `m ≤ x.exp`. -/
def Dyad.scaled (x : Dyad) (m : Int) : Int :=
  (if x.sg then -(x.man : Int) else (x.man : Int)) * 2 ^ (x.exp - m).toNat

/-- Comparison of two numbers: both as integer multiples of the smaller unit. -/
def Dyad.cmp (x y : Dyad) : Ordering :=
  compare (x.scaled (min x.exp y.exp)) (y.scaled (min x.exp y.exp))

/-- `-x`. -/
def Dyad.neg (x : Dyad) : Dyad := { x with sg := !x.sg }

/-- `|x|`. -/
def Dyad.abs (x : Dyad) : Dyad := { x with sg := false }

/-- `floor(log2 |x|)` for `x ≠ 0`. -/
def Dyad.scale (x : Dyad) : Int := x.man.log2 + x.exp

/-- The natural `k` as a number. -/
def Dyad.ofNat (k : Nat) : Dyad := Dyad.norm { sg := false, man := k, exp := 0 }

/-! ### Endpoints (42_pack.md R150) -/

/-- `fin(x, o)`, with the value normalised. -/
def fin (x : Dyad) (o : Bool) : Gnum := { val := x.norm, opn := o, inf := false }

/-- `pinf(o)`. -/
def pinf (o : Bool) : Gnum := { val := Dyad.pow2 0, opn := o, inf := true }

/-- `ninf(o)`. -/
def ninf (o : Bool) : Gnum := { val := (Dyad.pow2 0).neg, opn := o, inf := true }

/-- `NaNg` (10_state.md R28). -/
def nanG : Gbnd :=
  { nan := true, l := { val := Dyad.zero, opn := true, inf := false },
    r := { val := Dyad.zero, opn := true, inf := false } }

/-- `point(p)`. -/
def point (p : Gnum) : Gbnd := { nan := false, l := p, r := p }

/-- The normalised encoding of an endpoint: an infinity has `man = 1`, `exp = 0`, and one with value 0 is
read as +∞ (10_state.md R27, 42_pack.md R165). -/
def Gnum.norm (p : Gnum) : Gnum :=
  if p.inf then (if p.val.isNeg then ninf p.opn else pinf p.opn) else fin p.val p.opn

/-! ### The endpoint order (43_compare_select.md R181 to R183) -/

/-- Extended values. -/
inductive Ext where
  | ninf
  | fin (x : Dyad)
  | pinf
  deriving DecidableEq, Repr

/-- `ext(p)` (43_compare_select.md R181). -/
def Gnum.ext (p : Gnum) : Ext :=
  if p.inf then (if p.val.isNeg then .ninf else .pinf) else .fin p.val

/-- The order of the extended reals. -/
def Ext.cmp : Ext → Ext → Ordering
  | .ninf, .ninf => .eq
  | .ninf, _ => .lt
  | _, .ninf => .gt
  | .pinf, .pinf => .eq
  | .pinf, _ => .gt
  | _, .pinf => .lt
  | .fin x, .fin y => x.cmp y

/-- `cmpV(p, q)` (43_compare_select.md R181). -/
def cmpV (p q : Gnum) : Ordering := p.ext.cmp q.ext

/-- Which end of an interval an endpoint is (43_compare_select.md R182). -/
inductive Side where
  | left
  | right
  deriving DecidableEq, Repr

/-- `pos(side, open)`: right-open 0, right-closed 1, left-closed 1, left-open 2 (43_compare_select.md R182,
90_conflicts.md C1). -/
def Side.pos : Side → Bool → Nat
  | .right, true => 0
  | .right, false => 1
  | .left, false => 1
  | .left, true => 2

/-- `cmpE(p, sp, q, sq)` (43_compare_select.md R183). -/
def cmpE (p : Gnum) (sp : Side) (q : Gnum) (sq : Side) : Ordering :=
  (cmpV p q).then (compare (sp.pos p.opn) (sq.pos q.opn))

/-- `encloses(a, b)` for `a`, `b` not NaN (43_compare_select.md R184). -/
def encloses (a b : Gbnd) : Bool :=
  cmpE a.l .left b.l .left != .gt && cmpE a.r .right b.r .right != .lt

/-- `illformed(g)` for `g` not NaN (43_compare_select.md R185). -/
def illformed (g : Gbnd) : Bool := cmpE g.r .right g.l .left == .lt

/-- `cmpE(a.r, R, b.l, L) < 0`: all of `a` lies below all of `b` (43_compare_select.md R186). -/
def below (a b : Gbnd) : Bool := cmpE a.r .right b.l .left == .lt

/-- `identical(a, b)` (43_compare_select.md R190). -/
def identical (a b : Gbnd) : Bool :=
  !a.nan && !b.nan && cmpV a.l b.l == .eq && a.l.opn == b.l.opn && cmpV a.r b.r == .eq && a.r.opn == b.r.opn

/-! ### Negation (43_compare_select.md R195) -/

/-- `neg(p)`, normalised: an infinite endpoint read as +∞ becomes −∞. -/
def Gnum.neg (p : Gnum) : Gnum :=
  if p.inf then (if p.val.isNeg then pinf p.opn else ninf p.opn) else fin p.val.neg p.opn

/-- `negg(g)`. -/
def negg (g : Gbnd) : Gbnd :=
  if g.nan then nanG else { nan := false, l := g.r.neg, r := g.l.neg }

/-- A G value in its normalised encoding (10_state.md R27). -/
def Gbnd.norm (g : Gbnd) : Gbnd :=
  if g.nan then nanG else { nan := false, l := g.l.norm, r := g.r.norm }

end Sys2Proof.Machine
end

