-- ==== Sys2Proof/Machine/Coding.lean ====
section
/-! DEFINITION. Unpacking and packing: `u2r`, `u2g`, `b2g` (42_pack.md R151 to R153), `r2u` (R159 to R161) and
the endpoint encoders `encl`, `encr` (R164). -/

namespace Sys2Proof.Machine

/-! ### Unpacking -/

/-- `mag(u)` of a payload `(e, f)` at tag `(es, fs)` (42_pack.md R151): no hidden bit and effective exponent
`1 - bias` when `e = 0`, hidden bit 1 otherwise. -/
def magOf (e f es fs : Nat) : Dyad :=
  if e = 0 then Dyad.norm { sg := false, man := f, exp := 1 - bias es - fs }
  else Dyad.norm { sg := false, man := 2 ^ fs + f, exp := e - bias es - fs }

/-- `mag(u)` (42_pack.md R151). -/
def mag (E : Env) (u : Unum) : Dyad := magOf (expoOf E u) (fracOf E u) (esOf E u) (fsOf E u)

/-- `pinf(o)` or `ninf(o)` by sign. -/
def infOf (s o : Bool) : Gnum := if s then ninf o else pinf o

/-- `x` or `-x` by sign. -/
def Dyad.signed (x : Dyad) (s : Bool) : Dyad := if s then x.neg else x

/-- `u2r(u)` (42_pack.md R151). -/
def u2r (E : Env) (u : Unum) : Gnum :=
  if isSpecial E u then infOf (signOf E u) false
  else fin ((mag E u).signed (signOf E u)) false

/-- The open interval from `near` to `far`, both magnitudes or +∞, or its mirror image (42_pack.md R152). -/
def sliver (s : Bool) (near : Dyad) (far : Option Dyad) : Gbnd :=
  let n := fin (near.signed s) true
  let f := match far with
    | some x => fin (x.signed s) true
    | none => infOf s true
  if s then { nan := false, l := f, r := n } else { nan := false, l := n, r := f }

/-- `u2g(u)` (42_pack.md R152). -/
def u2g (E : Env) (u : Unum) : Gbnd :=
  if isNan E u then nanG
  else if isInf E u then point (u2r E u)
  else if ubitOf E u = false then point (u2r E u)
  else if isWidest E u then sliver (signOf E u) (mag E u) none
  else sliver (signOf E u) (mag E u) (some (mag E (u + E.ulpu)))

/-- `b2g(b)`, end by end (42_pack.md R153, 90_conflicts.md C3). -/
def b2g (E : Env) (b : Ubound) : Gbnd :=
  if b.p = false then u2g E b.l
  else if (u2g E b.l).nan || (u2g E b.r).nan then nanG
  else { nan := false, l := (u2g E b.l).l, r := (u2g E b.r).r }

/-! ### Encoding a real (42_pack.md R159 to R161) -/

/-- `S = 2^(esmax-1)` (42_pack.md R159). -/
def bigScale (E : Env) : Int := 2 ^ (E.esmax - 1)

/-- `maxreal = 2^S * (2 - 2^(1-fsmax))` (42_pack.md R159), as `(2^fsmax - 1) * 2^(S+1-fsmax)`. -/
def maxreal (E : Env) : Dyad :=
  Dyad.norm { sg := false, man := ones E.fsmax, exp := bigScale E + 1 - E.fsmax }

/-- The exponent of `smallsub = 2^(2 - S - fsmax)` (42_pack.md R159). -/
def smallsubExp (E : Env) : Int := 2 - bigScale E - E.fsmax

/-- `smallnorm = 2^(2 - S)` (42_pack.md R159). -/
def smallnorm (E : Env) : Dyad := Dyad.pow2 (2 - bigScale E)

/-- Whether `2^sc` is the scale of a normal number with exponent size `es` (42_pack.md R160). -/
def scaleFits (es : Nat) (sc : Int) : Bool :=
  decide (2 - 2 ^ (es - 1) ≤ sc) && decide (sc ≤ 2 ^ (es - 1))

/-- The least exponent size from `es` up that holds `sc`, looking at `fuel` sizes. -/
def esminFrom : Nat → Nat → Int → Nat
  | 0, es, _ => es
  | k + 1, es, sc => if scaleFits es sc then es else esminFrom k (es + 1) sc

/-- `esmin(sc)` (42_pack.md R160). The scales `r2u` asks about all fit `esmax` (R160), so the search over
`1..esmax` finds the least size. -/
def esmin (E : Env) (sc : Int) : Nat := esminFrom (E.esmax - 1) 1 sc

/-- Stripping trailing zero bits of an exact subnormal fraction while more than one bit is left (42_pack.md
R161 case 4): from `(fs, f)` to the stripped `(fs, f)`. -/
def stripZeros : Nat → Nat → Nat × Nat
  | k + 2, f => if f % 2 = 0 then stripZeros (k + 1) (f / 2) else (k + 2, f)
  | k, f => (k, f)

/-- Case 4 of `r2u` (42_pack.md R161), for a normalised magnitude `a` with `smallsub ≤ a < smallnorm`. -/
def encodeSubnormal (E : Env) (sg : Bool) (a : Dyad) : Unum :=
  let d := a.exp - smallsubExp E
  let n := if 0 ≤ d then a.man * 2 ^ d.toNat else a.man / 2 ^ (-d).toNat
  let ex : Bool := decide (0 ≤ d) || a.man % 2 ^ (-d).toNat == 0
  if ex then mk E sg 0 (stripZeros E.fsmax n).2 false E.esmax (stripZeros E.fsmax n).1
  else mk E sg 0 n true E.esmax E.fsmax

/-- Case 5a of `r2u` (42_pack.md R161): `1 - sc = 2^k` with `0 ≤ k ≤ esmax - 1`; gives `k`. -/
def subnormalPower (E : Env) (sc : Int) : Option Nat :=
  let d := (1 - sc).toNat
  if 0 < 1 - sc ∧ d = 2 ^ d.log2 ∧ d.log2 ≤ E.esmax - 1 then some d.log2 else none

/-- Case 5b of `r2u` (42_pack.md R161): the exact normal of significand `m` (odd, `n = log2 m` fraction
bits) and scale `sc`. -/
def encodeExact (E : Env) (sg : Bool) (m n : Nat) (sc : Int) : Unum :=
  let fs := max n 1
  let es := esmin E sc
  mk E sg (sc + bias es).toNat (m * 2 ^ (fs - n) - 2 ^ fs) false es fs

/-- Case 5c of `r2u` (42_pack.md R161): round up at full fraction width, step back one ULP, mark
uncertain. `m` has `n = log2 m > fsmax` fraction bits, so `y * 2^fsmax = m / 2^(n - fsmax)`. -/
def encodeInexact (E : Env) (sg : Bool) (m n : Nat) (sc : Int) : Unum :=
  let q := 2 ^ (n - E.fsmax)
  let c := (m + q - 1) / q
  let sc' := if c = 2 ^ (E.fsmax + 1) then sc + 1 else sc
  let c' := if c = 2 ^ (E.fsmax + 1) then 2 ^ E.fsmax else c
  let es := esmin E sc'
  let v := mk E false (sc' + bias es).toNat (c' - 2 ^ E.fsmax) false es E.fsmax
  let w := v - E.ulpu + E.ubitmask
  if sg then setSign E w else w

/-- `r2u(x)` (42_pack.md R161), the cases in the rule's order. The value is normalised first, so its
significand is odd and the least `n` of case 5b is `log2` of it. -/
def r2u (E : Env) (x : Dyad) : Unum :=
  let a := x.norm.abs
  let sg := x.isNeg
  if a.isZero then mk E false 0 0 false 1 1
  else if a.cmp (maxreal E) == .gt then openInfPattern E sg
  else if a.cmp (Dyad.pow2 (smallsubExp E)) == .lt then openZeroPattern E sg
  else if a.cmp (smallnorm E) == .lt then encodeSubnormal E sg a
  else
    let n := a.man.log2
    let sc := a.scale
    match (if n = 0 then subnormalPower E sc else none) with
    | some k => mk E sg 0 1 false (k + 1) 1
    | none =>
      if n ≤ E.fsmax then encodeExact E sg a.man n sc else encodeInexact E sg a.man n sc

/-! ### Encoding an endpoint (42_pack.md R164) -/

/-- `encl(p)`: the unum of a left end, and whether the value was not representable. -/
def encl (E : Env) (p : Gnum) : Unum × Bool :=
  if p.inf then
    if p.val.isNeg then (if p.opn then openInfPattern E true else infPattern E true, false)
    else (if p.opn then qnan E else infPattern E false, false)
  else
    let u := r2u E p.val
    if ubitOf E u then (u, true)
    else if p.opn = false then (u, false)
    else if p.val.isNeg then (u - E.ubitmask, false)
    else (u + E.ubitmask, false)

/-- `encr(p)`: the unum of a right end, and whether the value was not representable. -/
def encr (E : Env) (p : Gnum) : Unum × Bool :=
  if p.inf then
    if p.val.isNeg then (if p.opn then qnan E else infPattern E true, false)
    else (if p.opn then openInfPattern E false else infPattern E false, false)
  else
    let u := r2u E p.val
    if ubitOf E u then (u, true)
    else if p.opn = false then (u, false)
    else if p.val.isZero then (mk E true 0 0 true 1 1, false)
    else if p.val.isNeg then (u + E.ubitmask, false)
    else (u - E.ubitmask, false)

end Sys2Proof.Machine
end

