-- ==== Sys2Proof/Machine/Tags.lean ====
section
/-! DEFINITION. The result functions of promotion and demotion (41_tag.md R130 to R136). -/

namespace Sys2Proof.Machine

/-- The result of `promote_fraction` (41_tag.md R130): a zero appended to the fraction, no change at the
maximum width. -/
def promf (E : Env) (u : Unum) : Unum :=
  if fsOf E u = E.fsmax then u
  else mk E (signOf E u) (expoOf E u) (2 * fracOf E u) false (esOf E u) (fsOf E u + 1)

/-- The payload of `promote_exponent` (41_tag.md R131), at a tag `(es, fs)` below the maximum exponent size:
a normal stays normal, zero stays zero, a subnormal becomes normal where the wider format has room. -/
def promePayload (e f es fs : Nat) : Nat × Nat :=
  let D := 2 ^ (es - 1)
  if e ≠ 0 then (e + D, f)
  else if f = 0 then (0, 0)
  else if f.log2 + D ≥ fs then (1 + f.log2 + D - fs, (f - 2 ^ f.log2) * 2 ^ (fs - f.log2))
  else (0, f * 2 ^ D)

/-- The result of `promote_exponent` (41_tag.md R131). -/
def prome (E : Env) (u : Unum) : Unum :=
  if esOf E u = E.esmax then u
  else
    let p := promePayload (expoOf E u) (fracOf E u) (esOf E u) (fsOf E u)
    mk E (signOf E u) p.1 p.2 false (esOf E u + 1) (fsOf E u)

/-- The no-op condition of `demote_fraction` (41_tag.md R132). -/
def demfStays (E : Env) (u : Unum) : Bool := fsOf E u == 1 || isSpecial E u

/-- The bit `demote_fraction` drops (41_tag.md R132). -/
def demfLost (E : Env) (u : Unum) : Bool := fracOf E u % 2 == 1

/-- The result of `demote_fraction` (41_tag.md R132). -/
def demf (E : Env) (u : Unum) : Unum :=
  if demfStays E u then u
  else mk E (signOf E u) (expoOf E u) (fracOf E u / 2) (ubitOf E u || demfLost E u) (esOf E u) (fsOf E u - 1)

/-- What exponent demotion makes of a payload: exponent, fraction and whether the truncation was inexact. -/
structure Demoted where
  e : Nat
  f : Nat
  lost : Bool
  deriving DecidableEq, Repr

/-- The four arms of `demote_exponent` (41_tag.md R133) at a tag `(es, fs)` with `es ≥ 2`. -/
def demePayload (e f es fs : Nat) : Demoted :=
  let Q := 2 ^ (es - 2)
  let F := 2 ^ fs + f
  if e = 0 then { e := 0, f := f / 2 ^ Q, lost := f % 2 ^ Q != 0 }
  else if e ≤ Q then { e := 0, f := F / 2 ^ (Q - e + 1), lost := F % 2 ^ (Q - e + 1) != 0 }
  else if e < 3 * Q then { e := e - Q, f := f, lost := false }
  else { e := 2 ^ (es - 1) - 1, f := 2 ^ fs - 1, lost := true }

/-- The no-op condition of `demote_exponent` (41_tag.md R133). -/
def demeStays (E : Env) (u : Unum) : Bool := esOf E u == 1 || isSpecial E u

/-- The payload `demote_exponent` gives for `u`. -/
def demeOf (E : Env) (u : Unum) : Demoted := demePayload (expoOf E u) (fracOf E u) (esOf E u) (fsOf E u)

/-- The result of `demote_exponent` (41_tag.md R133). -/
def deme (E : Env) (u : Unum) : Unum :=
  if demeStays E u then u
  else mk E (signOf E u) (demeOf E u).e (demeOf E u).f (ubitOf E u || (demeOf E u).lost) (esOf E u - 1) (fsOf E u)

/-- Applying a step a given number of times. -/
def times (step : Unum → Unum) : Nat → Unum → Unum
  | 0, u => u
  | n + 1, u => times step n (step u)

/-- `promote_to(u, es', fs')` (41_tag.md R136). With sizes already at or above the target it does nothing. -/
def promoteTo (E : Env) (u : Unum) (es' fs' : Nat) : Unum :=
  times (promf E) (fs' - fsOf E u) (times (prome E) (es' - esOf E u) u)

/-- `ppair(u, v)` (41_tag.md R134): each `while` raises the smaller size by one per turn, so it runs as many
times as the sizes differ. -/
def ppair (E : Env) (u v : Unum) : Unum × Unum :=
  (promoteTo E u (esOf E v) (fsOf E v), promoteTo E v (esOf E u) (fsOf E u))

end Sys2Proof.Machine
end

