-- ==== Sys2Proof/Machine/Search.lean ====
section
/-! DEFINITION. The unification search controller (44_unify.md R211 to R219) and `pack` (42_pack.md R168). -/

namespace Sys2Proof.Machine

/-- The exits of the controller (44_unify.md R211). -/
inductive UnifyExit where
  | single
  | nanpass
  | infpass
  | illpass
  | samept
  | skip
  | zero
  | nudge
  | satmax
  | openinf
  | search
  | fail
  | closedinf
  deriving DecidableEq, Repr

/-- The exit codes (44_unify.md R211). -/
def UnifyExit.code : UnifyExit → Nat
  | .single => 0
  | .nanpass => 1
  | .infpass => 2
  | .illpass => 3
  | .samept => 4
  | .skip => 5
  | .zero => 6
  | .nudge => 7
  | .satmax => 8
  | .openinf => 9
  | .search => 10
  | .fail => 11
  | .closedinf => 12

/-- What a run of the controller gives: `(c, exit, eiter, fiter, neg)` (44_unify.md R212). -/
structure Unified where
  bound : Ubound
  exit : UnifyExit
  eiter : Nat
  fiter : Nat
  neg : Bool
  deriving DecidableEq, Repr

/-- What steps 6 to 9 give: a candidate single unum or none, the exit, and the steps taken. -/
structure Candidate where
  unum : Option Unum
  exit : UnifyExit
  eiter : Nat
  fiter : Nat
  deriving DecidableEq, Repr

/-- The left nudge (44_unify.md R214): an open end moves inward, a closed end outward. -/
def nudgeL (E : Env) (p : Unum) (o : Bool) : Unum := if o then p + E.ubitmask else p - E.ubitmask

/-- The right nudge (44_unify.md R214). -/
def nudgeR (E : Env) (p : Unum) (o : Bool) : Unum := if o then p - E.ubitmask else p + E.ubitmask

/-- `ceil(log2 r)` for `r > 0`. -/
def ceilLog2 (r : Dyad) : Int := r.scale + if r.man = 2 ^ r.man.log2 then 0 else 1

/-- `zerocand(r)` for `0 < r < 1` (44_unify.md R216). `r ≤ 2^(1 - 2^j)` says `2^j ≤ 1 - ceil(log2 r)`, so the
greatest such `j` is the `log2` of the right side. -/
def zerocand (E : Env) (r : Dyad) : Unum :=
  mk E false 0 0 true (min E.esmax ((1 - ceilLog2 r).toNat.log2 + 1)) 1

/-- The loop of step 7 (44_unify.md R212, R217): demote the lower sliver, exponent first, until it is the
widest pattern of its tag. Every turn lowers a size by one (R222), so `fuel = es + fs` is never used up. -/
def demoteToWidest (E : Env) : Nat → Unum → Nat → Nat → Candidate
  | 0, _, ei, fi => { unum := none, exit := .fail, eiter := ei, fiter := fi }
  | k + 1, u, ei, fi =>
    if isWidest E u then { unum := some u, exit := .openinf, eiter := ei, fiter := fi }
    else if 1 < esOf E u then demoteToWidest E k (deme E u) (ei + 1) fi
    else if 1 < fsOf E u then demoteToWidest E k (demf E u) ei (fi + 1)
    else { unum := none, exit := .fail, eiter := ei, fiter := fi }

/-- The exponent phase of step 9 (44_unify.md R212, R215): demote both while that is lossless. Gives the two
unums and the steps taken; `fuel = es` is never used up. -/
def exponentPhase (E : Env) : Nat → Unum → Unum → Nat → Unum × Unum × Nat
  | 0, ul, ur, ei => (ul, ur, ei)
  | k + 1, ul, ur, ei =>
    if ul ≠ ur ∧ 1 < esOf E ul then
      if identical (u2g E (deme E ul)) (u2g E ul) && identical (u2g E (deme E ur)) (u2g E ur) then
        exponentPhase E k (deme E ul) (deme E ur) (ei + 1)
      else (ul, ur, ei)
    else (ul, ur, ei)

/-- The fraction phase of step 9 (44_unify.md R212, R215): demote both until they coincide or the fraction
size is 1; `fuel = fs` is never used up. -/
def fractionPhase (E : Env) : Nat → Unum → Unum → Nat → Unum × Unum × Nat
  | 0, ul, ur, fi => (ul, ur, fi)
  | k + 1, ul, ur, fi =>
    if ul ≠ ur ∧ 1 < fsOf E ul then fractionPhase E k (demf E ul) (demf E ur) (fi + 1)
    else (ul, ur, fi)

/-- Step 9 (44_unify.md R212). -/
def searchBoth (E : Env) (ul ur : Unum) : Candidate :=
  let p := exponentPhase E (esOf E ul) ul ur 0
  let q := fractionPhase E (fsOf E p.1) p.1 p.2.1 0
  if q.1 = q.2.1 then { unum := some q.1, exit := .search, eiter := p.2.2, fiter := q.2.2 }
  else { unum := none, exit := .fail, eiter := p.2.2, fiter := q.2.2 }

/-- Step 7 (44_unify.md R212): the right end is +∞. -/
def candidateInf (E : Env) (g : Gbnd) : Candidate :=
  if g.r.opn = false then { unum := none, exit := .closedinf, eiter := 0, fiter := 0 }
  else if g.l.opn && g.l.val.cmp (maxreal E) == .eq then
    { unum := some (openInfPattern E false), exit := .satmax, eiter := 0, fiter := 0 }
  else
    let ul := nudgeL E (promoteTo E (r2u E g.l.val) E.esmax E.fsmax) g.l.opn
    demoteToWidest E (esOf E ul + fsOf E ul) ul 0 0

/-- Steps 8 and 9 (44_unify.md R212): both ends finite. -/
def candidateFinite (E : Env) (g : Gbnd) : Candidate :=
  let p := ppair E (r2u E g.l.val) (r2u E g.r.val)
  let ul := nudgeL E p.1 g.l.opn
  let ur := nudgeR E p.2 g.r.opn
  if ul = ur then { unum := some ul, exit := .nudge, eiter := 0, fiter := 0 }
  else searchBoth E ul ur

/-- Steps 6 to 9 (44_unify.md R212) for the positive interval `g`. -/
def candidate (E : Env) (g : Gbnd) : Candidate :=
  if g.l.val.isZero && !g.r.inf && g.r.val.cmp (Dyad.pow2 0) == .lt then
    { unum := some (zerocand E g.r.val), exit := .zero, eiter := 0, fiter := 0 }
  else if g.r.inf then candidateInf E g
  else candidateFinite E g

/-- Step 5 (44_unify.md R212, R218): one of 0, 1, 2, 3 is an element. -/
def holdsSmall (g : Gbnd) : Bool :=
  [0, 1, 2, 3].any fun k => encloses g (point (fin (Dyad.ofNat k) false))

/-- The closed endpoint 0, for sign tests. -/
def zeroEnd : Gnum := fin Dyad.zero false

/-- The singleton ubound of one unum (10_state.md R30). -/
def single (u : Unum) : Ubound := { p := false, l := u, r := 0 }

/-- The condition of step 4 (44_unify.md R212, R219): the interval is negative only. -/
def negativeOnly (g : Gbnd) : Bool := cmpV g.r zeroEnd != .gt && cmpV g.l zeroEnd == .lt

/-- Steps 5 to 10 (44_unify.md R212) for the interval `g` of `b`, mirrored when `neg`. -/
def unifyPositive (E : Env) (b : Ubound) (g : Gbnd) (neg : Bool) : Unified :=
  if cmpV g.l zeroEnd == .lt || holdsSmall g then
    { bound := b, exit := .skip, eiter := 0, fiter := 0, neg := neg }
  else
    let c := candidate E g
    match c.unum with
    | none => { bound := b, exit := c.exit, eiter := c.eiter, fiter := c.fiter, neg := neg }
    | some u =>
      if encloses (u2g E u) g then
        { bound := single (if neg then setSign E u else u), exit := c.exit, eiter := c.eiter,
          fiter := c.fiter, neg := neg }
      else { bound := b, exit := .fail, eiter := c.eiter, fiter := c.fiter, neg := neg }

/-- `unify(b)` (44_unify.md R212). -/
def unify (E : Env) (b : Ubound) : Unified :=
  let pass (x : UnifyExit) : Unified := { bound := b, exit := x, eiter := 0, fiter := 0, neg := false }
  let g0 := b2g E b
  if b.p = false then pass .single
  else if g0.nan then pass .nanpass
  else if g0.l.inf && g0.r.inf && cmpV g0.l g0.r == .eq then pass .infpass
  else if illformed g0 then pass .illpass
  else if identical (u2g E b.l) (u2g E b.r) then
    { bound := single (if numbits E b.r < numbits E b.l then b.r else b.l), exit := .samept, eiter := 0,
      fiter := 0, neg := false }
  else if negativeOnly g0 then unifyPositive E b (negg g0) true
  else unifyPositive E b g0 false

/-- What `pack` gives: the bound, and the controller's run where step 4 was reached (42_pack.md R168,
44_unify.md R225). -/
structure Packed where
  bound : Ubound
  run : Option Unified
  deriving DecidableEq, Repr

/-- `pack(g)` (42_pack.md R168). -/
def pack (E : Env) (g : Gbnd) : Packed :=
  if g.nan || illformed g then { bound := single (qnan E), run := none }
  else
    let ul := (encl E g.l).1
    let ur := (encr E g.r).1
    if ul = ur ∧ g.l.opn = g.r.opn then { bound := single ul, run := none }
    else
      let b : Ubound := { p := true, l := ul, r := ur }
      let c := unify E b
      { bound := if !c.bound.p && identical (b2g E c.bound) g then c.bound else b, run := some c }

end Sys2Proof.Machine
end

