-- ==== Sys2Proof/Machine/Flags.lean ====
section
/-! DEFINITION. The result flags (10_state.md R34) and the host-visible words of STATUS, ENV, TAG and UCTL. -/

namespace Sys2Proof.Machine

/-! ### Setting result flags, each by the commands of 10_state.md R34 only -/

/-- T. -/
def State.setT (s : State) (x : Bool) : State := { s with status := { s.status with t := x } }

/-- CLIP. -/
def State.setClip (s : State) (x : Bool) : State := { s with status := { s.status with clip := x } }

/-- INEX. -/
def State.setInex (s : State) (x : Bool) : State := { s with status := { s.status with inex := x } }

/-- LIM. -/
def State.setLim (s : State) (x : Bool) : State := { s with status := { s.status with lim := x } }

/-- UNI. -/
def State.setUni (s : State) (x : Bool) : State := { s with status := { s.status with uni := x } }

/-- NANF. -/
def State.setNanf (s : State) (x : Bool) : State := { s with status := { s.status with nanf := x } }

/-- The result flags cleared with the data state, the control bits kept (10_state.md R22). -/
def Status.clearFlags (x : Status) : Status :=
  { x with t := false, clip := false, inex := false, lim := false, uni := false, nanf := false }

/-! ### Predicates of the comparator (43_compare_select.md R186 to R190); false for a NaN operand -/

/-- `ok`: neither operand is NaN. -/
def bothNumbers (a b : Gbnd) : Bool := !a.nan && !b.nan

/-- CLT's T (43_compare_select.md R186). -/
def tLess (a b : Gbnd) : Bool := bothNumbers a b && below a b

/-- CGT's T (43_compare_select.md R187). -/
def tGreater (a b : Gbnd) : Bool := bothNumbers a b && cmpE a.l .left b.r .right == .gt

/-- CNEQ's T (43_compare_select.md R188). -/
def tNowhereEqual (a b : Gbnd) : Bool :=
  bothNumbers a b && (below a b || cmpE a.l .left b.r .right == .gt)

/-- CSEQ's T (43_compare_select.md R189). -/
def tSomewhereEqual (a b : Gbnd) : Bool :=
  bothNumbers a b && !(below a b || cmpE a.l .left b.r .right == .gt)

/-- NANF of a bound the unit writes: it decodes to NaN (42_pack.md R158, 44_unify.md R224). -/
def boundIsNan (E : Env) (b : Ubound) : Bool := (b2g E b).nan

/-! ### Register words (10_state.md R21, R34, R35, R38) -/

/-- STATUS as the host reads it (10_state.md R34). -/
def Status.word (x : Status) : Nat :=
  x.busy.toNat + x.err.toNat * 2 + x.fatal.toNat * 4 + x.ovr.toNat * 8 + x.t.toNat * 16 + x.clip.toNat * 32
    + x.inex.toNat * 64 + x.lim.toNat * 128 + x.uni.toNat * 256 + x.nanf.toNat * 512

/-- ENV as the host reads it: `V<<8 | ESS<<4 | FSS` (10_state.md R21). -/
def Env.word (E : Env) : Nat := E.v.toNat * 2 ^ 8 + E.ess.toNat * 2 ^ 4 + E.fss.toNat

/-- TAG as the host reads it (10_state.md R35). -/
def Tag.word (x : Tag) : Nat :=
  x.fs.toNat + x.es.toNat * 2 ^ 12 + x.ub.toNat * 2 ^ 17 + x.sg.toNat * 2 ^ 18 + x.nb.toNat * 2 ^ 20

/-- A host write of TAG: FS, ES, UB and SG; NB is read only (10_state.md R35). -/
def Tag.hostSet (x : Tag) (v : Nat) : Tag :=
  { x with fs := BitVec.ofNat 12 (slice v 0 12), es := BitVec.ofNat 5 (slice v 12 5),
           ub := slice v 17 1 == 1, sg := slice v 18 1 == 1 }

/-- UCTL as the host reads it (10_state.md R38). -/
def Uctl.word (x : Uctl) : Nat :=
  x.exit.toNat + x.eiter.toNat * 2 ^ 4 + x.fiter.toNat * 2 ^ 9 + x.neg.toNat * 2 ^ 21

/-- UCTL after a run of the controller (44_unify.md R224, R225). -/
def Unified.uctl (r : Unified) : Uctl :=
  { exit := BitVec.ofNat 4 r.exit.code, eiter := BitVec.ofNat 5 r.eiter, fiter := BitVec.ofNat 12 r.fiter,
    neg := r.neg }

end Sys2Proof.Machine
end

