-- ==== Sys2Proof/Machine/Ops.lean ====
section
/-! DEFINITION. The named operations of the unit: raising an error and the fatal state (60_exceptions.md R241,
R242, R244) with the recovery beside them (40_env_move.md R93), the environment check (30_encoding.md R73),
register reads and writes (10_state.md R24, R27, R31), clearing the data state (R22), and the operand
buffer with its packed layout (20_memory.md R50 to R57). -/

namespace Sys2Proof.Machine

/-- The answer of a meaning, of a step. -/
abbrev Answer := Host.Outcome State Fault Refusal

/-! ### Errors -/

/-- `code(E_x)` (60_exceptions.md R242). -/
def ErrCode.code : ErrCode → BitVec 8
  | .illegal => 0x01
  | .noEnv => 0x02
  | .field => 0x03
  | .operand => 0x04
  | .range => 0x05
  | .config => 0xFF

/-- `raise E_x`: the error latch (60_exceptions.md R241). The command writes nothing else. -/
def State.raise (s : State) (x : ErrCode) : State :=
  { s with status := { s.status with err := true, busy := false }, errcode := x.code }

/-- `fatal`: the fatal state of SETENV (60_exceptions.md R244). -/
def State.goFatal (s : State) : State :=
  { s with status := { s.status with fatal := true, busy := false }, errcode := ErrCode.config.code }

/-- CLRERR's effect, the only recovery from an error (40_env_move.md R93, 60_exceptions.md R248). -/
def State.clearError (s : State) : State :=
  { s with status := { s.status with err := false, ovr := false }, errcode := 0 }

/-- Step 5 of the decode order (30_encoding.md R73): every command other than NOP, SETENV, CLRENV and CLRERR
raises E_NOENV when `ENV.V = 0`. -/
def State.needEnv (s : State) (k : State) : Answer :=
  if s.env.v then .next k else .next (s.raise .noEnv)

/-- The command is over: `STATUS.BUSY <- 0` (70_reset_and_hazards.md R263). -/
def State.finish (s : State) : State := { s with status := { s.status with busy := false } }

/-- A state change after an answer; a stop stays as it is. -/
def thenDo (a : Answer) (f : State → State) : Answer :=
  match a with
  | .next s => .next (f s)
  | .fault r => .fault r
  | .refused r => .refused r

/-! ### Registers -/

/-- `U[i]`. -/
def State.readU (s : State) (i : UReg) : Unum := s.u[i]

/-- `B[i]`. -/
def State.readB (s : State) (i : BReg) : Ubound := s.b[i]

/-- `G[i]`. -/
def State.readG (s : State) (i : GReg) : Gbnd := s.g[i]

/-- `U[i] <- v` by the unit, canonical (10_state.md R24). -/
def State.writeU (s : State) (i : UReg) (v : Unum) : State := { s with u := s.u.set i (canon s.env v) }

/-- `B[i] <- v` by the unit, its unums canonical (10_state.md R24). -/
def State.writeB (s : State) (i : BReg) (v : Ubound) : State :=
  { s with b := s.b.set i { p := v.p, l := canon s.env v.l, r := canon s.env v.r } }

/-- `G[i] <- v`, bit for bit. -/
def State.writeG (s : State) (i : GReg) (v : Gbnd) : State := { s with g := s.g.set i v }

/-- Whether an exponent has an encoding in `GEW` bits, two's complement (10_state.md R27). -/
def expFits (c : Config) (e : Int) : Bool :=
  decide (-(2 ^ (c.gew - 1)) ≤ e) && decide (e < 2 ^ (c.gew - 1))

/-- The number that the low `GEW` bits of `e` encode in two's complement. -/
def wrapExp (c : Config) (e : Int) : Int := (e + 2 ^ (c.gew - 1)) % 2 ^ c.gew - 2 ^ (c.gew - 1)

/-- The least number of trailing zeros with which a number's exponent is not above the register's range. -/
def leastShift (c : Config) (x : Dyad) : Int := x.exp - (2 ^ (c.gew - 1) - 1)

/-- The greatest number of trailing zeros with which a nonzero number's significand fits `GMW` bits and its
exponent is not below the register's range. -/
def mostShift (c : Config) (x : Dyad) : Int := min (c.gmw - 1 - x.man.log2) (x.exp + 2 ^ (c.gew - 1))

/-- A normalised number as the register holds it, exactly (10_state.md R27). Where the normalised encoding
does not fit the widths (a legal build meets this only for a value the host wrote with trailing zeros and an
exponent near the top of its range), some encoding that fits is written. FREE VALUES (safe, log 8): which one;
and, for a number with no encoding in the widths at all, which no legal build meets, the significand and
exponent. -/
def fitDyad (c : Config) (x : Dyad) : Dyad :=
  if expFits c x.exp && decide (x.man < 2 ^ c.gmw) then x
  else if 0 ≤ leastShift c x ∧ leastShift c x ≤ mostShift c x then
    let k := (leastShift c x).toNat +
      Config.unfitShift x.man x.exp % (mostShift c x - leastShift c x + 1).toNat
    { sg := x.sg, man := x.man * 2 ^ k, exp := x.exp - k }
  else
    { sg := x.sg, man := Config.unfitMan x.man x.exp % 2 ^ c.gmw,
      exp := wrapExp c (Config.unfitExp x.man x.exp) }

/-- A normalised endpoint as the register holds it; its flags are as they are. -/
def fitGnum (c : Config) (p : Gnum) : Gnum := { p with val := fitDyad c p.val }

/-- An interval as the register holds it, end by end. -/
def fitGbnd (c : Config) (g : Gbnd) : Gbnd :=
  { nan := g.nan, l := fitGnum c g.l, r := fitGnum c g.r }

/-- `G[i] <- v` of a computed interval, written normalised (10_state.md R27). -/
def State.storeG (s : State) (i : GReg) (v : Gbnd) : State := s.writeG i (fitGbnd s.cfg v.norm)

/-- Every U, B and G register, TAG, FEXP, FFRAC, UCTL and the result flags set to their reset values; BUF,
ERR, OVR, FATAL and ERRCODE kept (10_state.md R22). -/
def State.clearData (s : State) : State :=
  { s with u := Vector.replicate 8 0, b := Vector.replicate 4 Ubound.init,
           g := Vector.replicate 4 Gbnd.init, tag := Tag.init, fexp := 0, ffrac := 0,
           uctl := Uctl.init, status := s.status.clearFlags }

/-- ENV written (10_state.md R21). -/
def State.writeEnv (s : State) (E : Env) : State := { s with env := E }

/-- UCTL written from a run of the controller (44_unify.md R224). -/
def State.writeUctl (s : State) (r : Unified) : State := { s with uctl := r.uctl }

/-! ### The operand buffer (20_memory.md R50 to R52) -/

/-- Reading one byte. -/
def Memory.read : Memory → Nat → Byte
  | [], _ => Memory.unlisted
  | c :: m, a => if c.1 = a then c.2 else Memory.read m a

/-- Writing one byte, keeping the canonical form. -/
def Memory.write : Memory → Nat → Byte → Memory
  | [], a, v => if v = Memory.unlisted then [] else [(a, v)]
  | c :: m, a, v =>
    if a < c.1 then (if v = Memory.unlisted then c :: m else (a, v) :: c :: m)
    else if a = c.1 then (if v = Memory.unlisted then m else (a, v) :: m)
    else c :: Memory.write m a v

/-- `BufRead(a, n)` (20_memory.md R52). -/
def Memory.readBytes (m : Memory) (a : Nat) : Nat → List Byte
  | 0 => []
  | n + 1 => m.read a :: Memory.readBytes m (a + 1) n

/-- `BufWrite(a, bytes)` (20_memory.md R52). -/
def Memory.writeBytes (m : Memory) (a : Nat) : List Byte → Memory
  | [] => m
  | v :: vs => Memory.writeBytes (m.write a v) (a + 1) vs

/-- The little-endian number of a list of bytes (20_memory.md R53). -/
def leNat : List Byte → Nat
  | [] => 0
  | v :: vs => v.toNat + 2 ^ 8 * leNat vs

/-- The low `n` bytes of a number, little-endian (20_memory.md R53). -/
def leBytes : Nat → Nat → List Byte
  | 0, _ => []
  | n + 1, v => BitVec.ofNat 8 v :: leBytes n (v / 2 ^ 8)

/-- `nbytes(u) = ceil(numbits(u) / 8)` (20_memory.md R54). -/
def nbytes (E : Env) (u : Unum) : Nat := (numbits E u + 7) / 8

/-- `PackU(u)` (20_memory.md R56). -/
def packU (E : Env) (u : Unum) : List Byte := leBytes (nbytes E u) u

/-- The packed bound (20_memory.md R57). -/
def packB (E : Env) (b : Ubound) : List Byte :=
  if b.p then BitVec.ofNat 8 1 :: (packU E b.l ++ packU E b.r) else BitVec.ofNat 8 0 :: packU E b.l

/-- What a load gives: a value, or the error it raises (20_memory.md R51, R57). -/
abbrev Loaded (α : Type) := Except ErrCode α

/-- A unum and the bytes it took (20_memory.md R55). -/
structure Unpacked where
  unum : Unum
  len : Nat
  deriving DecidableEq, Repr

/-- `tb = ceil(utagsize / 8)`, the bytes that hold the utag (20_memory.md R55). -/
def tagBytes (E : Env) : Nat := (E.utagsize + 7) / 8

/-- `UnpackU(a)` (20_memory.md R55): the tag bytes tell the length, the pad bits are dropped. -/
def State.unpackU (s : State) (a : Nat) : Loaded Unpacked :=
  if s.cfg.bufsz < a + tagBytes s.env then .error .range
  else
    let t := leNat (s.buf.readBytes a (tagBytes s.env))
    let n := nbytes s.env t
    if s.cfg.bufsz < a + n then .error .range
    else .ok { unum := slice (leNat (s.buf.readBytes a n)) 0 (numbits s.env t), len := n }

/-- The load of a packed bound, its checks in the order of 40_env_move.md R103 and 60_exceptions.md R247. -/
def State.unpackB (s : State) (a : Nat) : Loaded Ubound :=
  if s.cfg.bufsz ≤ a then .error .range
  else
    let f := (s.buf.read a).toNat
    if 1 < f then .error .field
    else
      match s.unpackU (a + 1) with
      | .error x => .error x
      | .ok l =>
        if f = 0 then .ok (single l.unum)
        else
          match s.unpackU (a + 1 + l.len) with
          | .error x => .error x
          | .ok r => .ok { p := true, l := l.unum, r := r.unum }

/-- A store of bytes at `a`: E_RANGE before anything is written if they pass the buffer's end (20_memory.md
R51). -/
def State.storeBytes (s : State) (a : Nat) (bs : List Byte) : State :=
  if s.cfg.bufsz < a + bs.length then s.raise .range else { s with buf := s.buf.writeBytes a bs }

/-- The end of a load: the error raised, or the value given on. -/
def State.onLoad {α : Type} (s : State) (x : Loaded α) (k : α → State) : State :=
  match x with
  | .error e => s.raise e
  | .ok v => k v

end Sys2Proof.Machine
end

