-- ==== Sys2Proof/Machine/CompareSelect.lean ====
section
/-! DEFINITION. The endpoint comparator and selector commands (43_compare_select.md R186 to R195). -/

namespace Sys2Proof.Machine

/-- CLT (43_compare_select.md R186). -/
def execClt (ra rb : GReg) (s : State) : Answer := s.needEnv (s.setT (tLess (s.readG ra) (s.readG rb)))

/-- CGT (43_compare_select.md R187). -/
def execCgt (ra rb : GReg) (s : State) : Answer := s.needEnv (s.setT (tGreater (s.readG ra) (s.readG rb)))

/-- CNEQ (43_compare_select.md R188). -/
def execCneq (ra rb : GReg) (s : State) : Answer := s.needEnv (s.setT (tNowhereEqual (s.readG ra) (s.readG rb)))

/-- CSEQ (43_compare_select.md R189). -/
def execCseq (ra rb : GReg) (s : State) : Answer := s.needEnv (s.setT (tSomewhereEqual (s.readG ra) (s.readG rb)))

/-- CIDN (43_compare_select.md R190). -/
def execCidn (ra rb : GReg) (s : State) : Answer := s.needEnv (s.setT (identical (s.readG ra) (s.readG rb)))

/-- The lesser of two ends of one side, the first on a tie (43_compare_select.md R191). -/
def minEnd (side : Side) (p q : Gnum) : Gnum := if cmpE p side q side != .gt then p else q

/-- The greater of two ends of one side, the first on a tie (43_compare_select.md R192). -/
def maxEnd (side : Side) (p q : Gnum) : Gnum := if cmpE p side q side != .lt then p else q

/-- The result of MIN (43_compare_select.md R191). -/
def minG (a b : Gbnd) : Gbnd :=
  if a.nan || b.nan then nanG
  else { nan := false, l := minEnd .left a.l b.l, r := minEnd .right a.r b.r }

/-- The result of MAX (43_compare_select.md R192). -/
def maxG (a b : Gbnd) : Gbnd :=
  if a.nan || b.nan then nanG
  else { nan := false, l := maxEnd .left a.l b.l, r := maxEnd .right a.r b.r }

/-- Whether CLIPL replaces the left end (43_compare_select.md R193). -/
def clipsLow (a b : Gbnd) : Bool := bothNumbers a b && cmpE b.l .left a.l .left == .gt

/-- The result of CLIPL (43_compare_select.md R193). -/
def clipLow (a b : Gbnd) : Gbnd :=
  if a.nan || b.nan then nanG else if clipsLow a b then { nan := false, l := b.l, r := a.r } else a

/-- Whether CLIPH replaces the right end (43_compare_select.md R194). -/
def clipsHigh (a b : Gbnd) : Bool := bothNumbers a b && cmpE b.r .right a.r .right == .lt

/-- The result of CLIPH (43_compare_select.md R194). -/
def clipHigh (a b : Gbnd) : Gbnd :=
  if a.nan || b.nan then nanG else if clipsHigh a b then { nan := false, l := a.l, r := b.r } else a

/-- MIN (43_compare_select.md R191). -/
def execMin (rd ra rb : GReg) (s : State) : Answer :=
  s.needEnv <|
    let v := minG (s.readG ra) (s.readG rb)
    (s.storeG rd v).setNanf v.nan

/-- MAX (43_compare_select.md R192). -/
def execMax (rd ra rb : GReg) (s : State) : Answer :=
  s.needEnv <|
    let v := maxG (s.readG ra) (s.readG rb)
    (s.storeG rd v).setNanf v.nan

/-- CLIPL (43_compare_select.md R193). -/
def execClipl (rd ra rb : GReg) (s : State) : Answer :=
  s.needEnv <|
    let v := clipLow (s.readG ra) (s.readG rb)
    ((s.storeG rd v).setClip (clipsLow (s.readG ra) (s.readG rb))).setNanf v.nan

/-- CLIPH (43_compare_select.md R194). -/
def execCliph (rd ra rb : GReg) (s : State) : Answer :=
  s.needEnv <|
    let v := clipHigh (s.readG ra) (s.readG rb)
    ((s.storeG rd v).setClip (clipsHigh (s.readG ra) (s.readG rb))).setNanf v.nan

/-- NEGG (43_compare_select.md R195). -/
def execNegg (rd ra : GReg) (s : State) : Answer :=
  s.needEnv <|
    let v := negg (s.readG ra)
    (s.storeG rd v).setNanf v.nan

end Sys2Proof.Machine
end

