-- ==== Sys2Proof/Machine/EnvMove.lean ====
section
/-! DEFINITION. Environment, constant, move and buffer commands (40_env_move.md R90 to R104). -/

namespace Sys2Proof.Machine

/-- NOP (40_env_move.md R90): nothing. -/
def execNop (s : State) : Answer := .next s

/-- SETENV (40_env_move.md R91): fatal beyond the caps, else a new environment and a cleared data state. -/
def execSetenv (ess fss : BitVec 4) (s : State) : Answer :=
  if s.cfg.essCap < ess.toNat ∨ s.cfg.fssCap < fss.toNat then .next s.goFatal
  else .next (s.clearData.writeEnv { v := true, ess := ess, fss := fss })

/-- CLRENV (40_env_move.md R92). -/
def execClrenv (s : State) : Answer := .next (s.clearData.writeEnv Env.init)

/-- CLRERR (40_env_move.md R93). -/
def execClrerr (s : State) : Answer := .next s.clearError

/-- LDC (40_env_move.md R94). -/
def execLdc (rd : UReg) (id : Imm) (s : State) : Answer :=
  s.needEnv <|
    match pattern s.env id.toNat with
    | none => s.raise .field
    | some v => s.writeU rd v

/-- MOVU (40_env_move.md R95). -/
def execMovu (rd ra : UReg) (s : State) : Answer := s.needEnv (s.writeU rd (s.readU ra))

/-- MOVB (40_env_move.md R96): all of P, L, R. -/
def execMovb (rd ra : BReg) (s : State) : Answer := s.needEnv (s.writeB rd (s.readB ra))

/-- MOVG (40_env_move.md R97): bit for bit, not normalised. -/
def execMovg (rd ra : GReg) (s : State) : Answer := s.needEnv (s.writeG rd (s.readG ra))

/-- MKB (40_env_move.md R98). -/
def execMkb (rd : BReg) (ra rb : UReg) (pair : Bool) (s : State) : Answer :=
  s.needEnv <|
    s.writeB rd (if pair then { p := true, l := s.readU ra, r := s.readU rb } else single (s.readU ra))

/-- GETL (40_env_move.md R99). -/
def execGetl (rd : UReg) (ra : BReg) (s : State) : Answer := s.needEnv (s.writeU rd (s.readB ra).l)

/-- GETR (40_env_move.md R100): the right unum of a singleton is its only unum. -/
def execGetr (rd : UReg) (ra : BReg) (s : State) : Answer :=
  s.needEnv (s.writeU rd (if (s.readB ra).p then (s.readB ra).r else (s.readB ra).l))

/-- LDU (40_env_move.md R101). -/
def execLdu (rd : UReg) (addr : Imm) (s : State) : Answer :=
  s.needEnv (s.onLoad (s.unpackU addr.toNat) fun x => s.writeU rd x.unum)

/-- STU (40_env_move.md R102). -/
def execStu (ra : UReg) (addr : Imm) (s : State) : Answer :=
  s.needEnv (s.storeBytes addr.toNat (packU s.env (s.readU ra)))

/-- LDB (40_env_move.md R103). -/
def execLdb (rd : BReg) (addr : Imm) (s : State) : Answer :=
  s.needEnv (s.onLoad (s.unpackB addr.toNat) fun x => s.writeB rd x)

/-- STB (40_env_move.md R104). -/
def execStb (ra : BReg) (addr : Imm) (s : State) : Answer :=
  s.needEnv (s.storeBytes addr.toNat (packB s.env (s.readB ra)))

end Sys2Proof.Machine
end

