-- ==== Sys2Proof/Machine/PackCommands.lean ====
section
/-! DEFINITION. Bound unpacking and packing commands (42_pack.md R154 to R158) and UNIFY (44_unify.md R224). -/

namespace Sys2Proof.Machine

/-- U2G (42_pack.md R154). -/
def execU2g (rd : GReg) (ra : UReg) (s : State) : Answer :=
  s.needEnv <|
    let v := u2g s.env (s.readU ra)
    (s.storeG rd v).setNanf v.nan

/-- B2G (42_pack.md R155). -/
def execB2g (rd : GReg) (ra : BReg) (s : State) : Answer :=
  s.needEnv <|
    let v := b2g s.env (s.readB ra)
    (s.storeG rd v).setNanf v.nan

/-- ENCL (42_pack.md R156). -/
def execEncl (rd : UReg) (ra : GReg) (s : State) : Answer :=
  s.needEnv <|
    let g := s.readG ra
    if g.nan then ((s.writeU rd (qnan s.env)).setInex false).setNanf true
    else
      let p := encl s.env g.l
      ((s.writeU rd p.1).setInex p.2).setNanf (isNan s.env p.1)

/-- ENCR (42_pack.md R157). -/
def execEncr (rd : UReg) (ra : GReg) (s : State) : Answer :=
  s.needEnv <|
    let g := s.readG ra
    if g.nan then ((s.writeU rd (qnan s.env)).setInex false).setNanf true
    else
      let p := encr s.env g.r
      ((s.writeU rd p.1).setInex p.2).setNanf (isNan s.env p.1)

/-- UCTL after a PACK: written iff its unify step was reached (44_unify.md R225). -/
def State.packUctl (s : State) (run : Option Unified) : State :=
  match run with
  | none => s
  | some r => s.writeUctl r

/-- PACK (42_pack.md R158). -/
def execPack (rd : BReg) (ra : GReg) (s : State) : Answer :=
  s.needEnv <|
    let k := pack s.env (s.readG ra)
    (((s.writeB rd k.bound).packUctl k.run).setUni (!k.bound.p)).setNanf (!k.bound.p && isNan s.env k.bound.l)

/-- UNIFY (44_unify.md R224). -/
def execUnify (rd ra : BReg) (s : State) : Answer :=
  s.needEnv <|
    let r := unify s.env (s.readB ra)
    (((s.writeB rd r.bound).writeUctl r).setUni (!r.bound.p)).setNanf (boundIsNan s.env r.bound)

end Sys2Proof.Machine
end

