-- ==== Sys2Proof/Machine/TagCommands.lean ====
section
/-! DEFINITION. Bit-tag decode, encode, promote and demote commands (41_tag.md R128 to R134). -/

namespace Sys2Proof.Machine

/-- DTAG (41_tag.md R128). -/
def execDtag (ra : UReg) (s : State) : Answer :=
  s.needEnv <|
    let u := s.readU ra
    { s with tag := { fs := BitVec.ofNat 12 (fsOf s.env u), es := BitVec.ofNat 5 (esOf s.env u),
                      ub := ubitOf s.env u, sg := signOf s.env u, nb := BitVec.ofNat 12 (numbits s.env u) },
             fexp := expoOf s.env u, ffrac := fracOf s.env u }

/-- Whether TAG, FEXP and FFRAC hold a legal unum (41_tag.md R129). -/
def State.tagLegal (s : State) : Bool :=
  decide (1 ≤ s.tag.fs.toNat) && decide (s.tag.fs.toNat ≤ s.env.fsmax) && decide (1 ≤ s.tag.es.toNat)
    && decide (s.tag.es.toNat ≤ s.env.esmax) && decide (s.fexp < 2 ^ s.tag.es.toNat)
    && decide (s.ffrac < 2 ^ s.tag.fs.toNat)

/-- ETAG (41_tag.md R129). -/
def execEtag (rd : UReg) (s : State) : Answer :=
  s.needEnv <|
    if s.tagLegal then
      let w := s.writeU rd (mk s.env s.tag.sg s.fexp s.ffrac s.tag.ub s.tag.es.toNat s.tag.fs.toNat)
      { w with tag := { s.tag with nb := BitVec.ofNat 12 (s.env.utagsize + s.tag.fs.toNat + s.tag.es.toNat + 1) } }
    else s.raise .field

/-- PROMF (41_tag.md R130). -/
def execPromf (rd ra : UReg) (s : State) : Answer :=
  s.needEnv <|
    let u := s.readU ra
    if ubitOf s.env u then s.raise .operand
    else (s.writeU rd (promf s.env u)).setLim (fsOf s.env u == s.env.fsmax)

/-- PROME (41_tag.md R131). -/
def execProme (rd ra : UReg) (s : State) : Answer :=
  s.needEnv <|
    let u := s.readU ra
    if ubitOf s.env u then s.raise .operand
    else (s.writeU rd (prome s.env u)).setLim (esOf s.env u == s.env.esmax)

/-- DEMF (41_tag.md R132). -/
def execDemf (rd ra : UReg) (s : State) : Answer :=
  s.needEnv <|
    let u := s.readU ra
    ((s.writeU rd (demf s.env u)).setLim (demfStays s.env u)).setInex
      (!demfStays s.env u && demfLost s.env u)

/-- DEME (41_tag.md R133). -/
def execDeme (rd ra : UReg) (s : State) : Answer :=
  s.needEnv <|
    let u := s.readU ra
    ((s.writeU rd (deme s.env u)).setLim (demeStays s.env u)).setInex
      (!demeStays s.env u && (demeOf s.env u).lost)

/-- PROMP (41_tag.md R134): both operands read before either is written. -/
def execPromp (rd ra : UReg) (s : State) : Answer :=
  s.needEnv <|
    let u := s.readU rd
    let v := s.readU ra
    if ubitOf s.env u || ubitOf s.env v then s.raise .operand
    else
      let p := ppair s.env u v
      ((s.writeU rd p.1).writeU ra p.2).setLim (p.1 == u && p.2 == v)

end Sys2Proof.Machine
end

