-- ==== Sys2Proof/Machine/Dispatch.lean ====
section
/-! DEFINITION. What each command does: one direct call of its meaning per constructor of Instr. -/

namespace Sys2Proof.Machine

def exec (i : Instr) (s : State) : Host.Outcome State Fault Refusal :=
  match i with
  | .nop => Sys2Proof.Machine.execNop s
  | .setenv ess fss => Sys2Proof.Machine.execSetenv ess fss s
  | .clrenv => Sys2Proof.Machine.execClrenv s
  | .clrerr => Sys2Proof.Machine.execClrerr s
  | .ldc rd id => Sys2Proof.Machine.execLdc rd id s
  | .movu rd ra => Sys2Proof.Machine.execMovu rd ra s
  | .movb rd ra => Sys2Proof.Machine.execMovb rd ra s
  | .movg rd ra => Sys2Proof.Machine.execMovg rd ra s
  | .mkb rd ra rb pair => Sys2Proof.Machine.execMkb rd ra rb pair s
  | .getl rd ra => Sys2Proof.Machine.execGetl rd ra s
  | .getr rd ra => Sys2Proof.Machine.execGetr rd ra s
  | .ldu rd addr => Sys2Proof.Machine.execLdu rd addr s
  | .stu ra addr => Sys2Proof.Machine.execStu ra addr s
  | .ldb rd addr => Sys2Proof.Machine.execLdb rd addr s
  | .stb ra addr => Sys2Proof.Machine.execStb ra addr s
  | .dtag ra => Sys2Proof.Machine.execDtag ra s
  | .etag rd => Sys2Proof.Machine.execEtag rd s
  | .promf rd ra => Sys2Proof.Machine.execPromf rd ra s
  | .prome rd ra => Sys2Proof.Machine.execProme rd ra s
  | .demf rd ra => Sys2Proof.Machine.execDemf rd ra s
  | .deme rd ra => Sys2Proof.Machine.execDeme rd ra s
  | .promp rd ra => Sys2Proof.Machine.execPromp rd ra s
  | .u2g rd ra => Sys2Proof.Machine.execU2g rd ra s
  | .b2g rd ra => Sys2Proof.Machine.execB2g rd ra s
  | .encl rd ra => Sys2Proof.Machine.execEncl rd ra s
  | .encr rd ra => Sys2Proof.Machine.execEncr rd ra s
  | .pack rd ra => Sys2Proof.Machine.execPack rd ra s
  | .clt ra rb => Sys2Proof.Machine.execClt ra rb s
  | .cgt ra rb => Sys2Proof.Machine.execCgt ra rb s
  | .cneq ra rb => Sys2Proof.Machine.execCneq ra rb s
  | .cseq ra rb => Sys2Proof.Machine.execCseq ra rb s
  | .cidn ra rb => Sys2Proof.Machine.execCidn ra rb s
  | .min rd ra rb => Sys2Proof.Machine.execMin rd ra rb s
  | .max rd ra rb => Sys2Proof.Machine.execMax rd ra rb s
  | .clipl rd ra rb => Sys2Proof.Machine.execClipl rd ra rb s
  | .cliph rd ra rb => Sys2Proof.Machine.execCliph rd ra rb s
  | .negg rd ra => Sys2Proof.Machine.execNegg rd ra s
  | .unify rd ra => Sys2Proof.Machine.execUnify rd ra s

end Sys2Proof.Machine
end

