-- ==== Sys2Proof/Machine/HostPort.lean ====
section
/-! DEFINITION. The host's side: the register map and access rules (10_state.md R33, 60_exceptions.md R252),
latching a command (70_reset_and_hazards.md R264), WAIT and the reset input (R260). -/

namespace Sys2Proof.Machine

/-- What stands at a register address (10_state.md R33). -/
inductive HostReg where
  | cmd
  | status
  | errcode
  | env
  | tag
  | fexp
  | uctl
  | ffrac
  | u (i : UReg)
  | bP (j : BReg)
  | bL (j : BReg)
  | bR (j : BReg)
  | gNan (k : GReg)
  | gFlags (k : GReg) (side : Side)
  | gExp (k : GReg) (side : Side)
  | gMan (k : GReg) (side : Side)
  | buf (a : Nat)
  | unmapped
  deriving DecidableEq, Repr

/-- The fields of `B[j]`, three addresses each from 0x110 (10_state.md R33). -/
def hostB (j : BReg) (field : Nat) : HostReg :=
  match field with
  | 0 => .bP j
  | 1 => .bL j
  | _ => .bR j

/-- The fields of `G[k]`, eight addresses each from 0x120, the last reserved (10_state.md R33). -/
def hostG (k : GReg) (field : Nat) : HostReg :=
  match field with
  | 0 => .gNan k
  | 1 => .gFlags k .left
  | 2 => .gExp k .left
  | 3 => .gMan k .left
  | 4 => .gFlags k .right
  | 5 => .gExp k .right
  | 6 => .gMan k .right
  | _ => .unmapped

/-- The register map (10_state.md R33). Addresses are numbers of registers. -/
def hostReg (c : Config) (a : Nat) : HostReg :=
  if a = 0x000 then .cmd
  else if a = 0x001 then .status
  else if a = 0x002 then .errcode
  else if a = 0x003 then .env
  else if a = 0x004 then .tag
  else if a = 0x005 then .fexp
  else if a = 0x006 then .uctl
  else if a = 0x010 then .ffrac
  else if 0x100 ≤ a ∧ a < 0x108 then .u (Fin.ofNat 8 (a - 0x100))
  else if 0x110 ≤ a ∧ a < 0x11C then hostB (Fin.ofNat 4 ((a - 0x110) / 3)) ((a - 0x110) % 3)
  else if 0x120 ≤ a ∧ a < 0x140 then hostG (Fin.ofNat 4 ((a - 0x120) / 8)) ((a - 0x120) % 8)
  else if 0x1000 ≤ a ∧ a < 0x1000 + c.bufsz then .buf (a - 0x1000)
  else .unmapped

/-- One end of an interval. -/
def Gbnd.endOf (g : Gbnd) : Side → Gnum
  | .left => g.l
  | .right => g.r

/-- One end of an interval replaced. -/
def Gbnd.setEnd (g : Gbnd) (side : Side) (p : Gnum) : Gbnd :=
  match side with
  | .left => { g with l := p }
  | .right => { g with r := p }

/-- The flags register of an endpoint: bit 0 open, bit 1 inf, bit 2 sg (10_state.md R33). -/
def Gnum.flags (p : Gnum) : Nat := p.opn.toNat + p.inf.toNat * 2 + p.val.sg.toNat * 4

/-- A host write of an endpoint's flags. -/
def Gnum.setFlags (p : Gnum) (v : Nat) : Gnum :=
  { opn := slice v 0 1 == 1, inf := slice v 1 1 == 1, val := { p.val with sg := slice v 2 1 == 1 } }

/-- The `GEW` bits of an exponent, two's complement (10_state.md R27, R33). -/
def expBits (c : Config) (e : Int) : Nat := (e % 2 ^ c.gew).toNat

/-- The value a host read of a register gives: the whole register, 0 for CMD and unmapped addresses
(10_state.md R33, 60_exceptions.md R252). -/
def State.readReg (s : State) (r : HostReg) : Nat :=
  match r with
  | .cmd => 0
  | .status => s.status.word
  | .errcode => s.errcode.toNat
  | .env => s.env.word
  | .tag => s.tag.word
  | .fexp => s.fexp
  | .uctl => s.uctl.word
  | .ffrac => s.ffrac
  | .u i => s.u[i]
  | .bP j => s.b[j].p.toNat
  | .bL j => s.b[j].l
  | .bR j => s.b[j].r
  | .gNan k => s.g[k].nan.toNat
  | .gFlags k side => (s.g[k].endOf side).flags
  | .gExp k side => expBits s.cfg (s.g[k].endOf side).val.exp
  | .gMan k side => (s.g[k].endOf side).val.man
  | .buf a => (s.buf.read a).toNat
  | .unmapped => 0

/-- A unum as a host write stores it: the low `W` bits, made canonical when an environment is established
(10_state.md R24, R33). -/
def State.hostUnum (s : State) (v : Nat) : Unum :=
  if s.env.v then canon s.env (slice v 0 s.cfg.width) else slice v 0 s.cfg.width

/-- Latching a command word: `CMD latch <- w ; STATUS.BUSY <- 1` (70_reset_and_hazards.md R264). -/
def State.latch (s : State) (w : Word) : State :=
  { s with cmd := w, status := { s.status with busy := true } }

/-- A host write of CMD: latched when BUSY = 0, else OVR and the word is lost (70_reset_and_hazards.md R264). -/
def State.writeCmd (s : State) (v : Nat) : State :=
  if s.status.busy then { s with status := { s.status with ovr := true } } else s.latch (BitVec.ofNat 32 v)

/-- A host write of one end of `G[k]`. -/
def State.setGEnd (s : State) (k : GReg) (side : Side) (f : Gnum → Gnum) : State :=
  s.writeG k (s.g[k].setEnd side (f (s.g[k].endOf side)))

/-- A host write of a register: the low bits that fit are kept; read-only registers and unmapped addresses
ignore it (10_state.md R33, 60_exceptions.md R252). -/
def State.writeReg (s : State) (r : HostReg) (v : Nat) : State :=
  match r with
  | .cmd => s.writeCmd v
  | .status | .errcode | .env | .uctl | .unmapped => s
  | .tag => { s with tag := s.tag.hostSet v }
  | .fexp => { s with fexp := slice v 0 (2 ^ s.cfg.essCap) }
  | .ffrac => { s with ffrac := slice v 0 (2 ^ s.cfg.fssCap) }
  | .u i => { s with u := s.u.set i (s.hostUnum v) }
  | .bP j => { s with b := s.b.set j { s.b[j] with p := slice v 0 1 == 1 } }
  | .bL j => { s with b := s.b.set j { s.b[j] with l := s.hostUnum v } }
  | .bR j => { s with b := s.b.set j { s.b[j] with r := s.hostUnum v } }
  | .gNan k => s.writeG k { s.g[k] with nan := slice v 0 1 == 1 }
  | .gFlags k side => s.setGEnd k side (·.setFlags v)
  | .gExp k side => s.setGEnd k side fun p => { p with val := { p.val with exp := wrapExp s.cfg v } }
  | .gMan k side => s.setGEnd k side fun p => { p with val := { p.val with man := slice v 0 s.cfg.gmw } }
  | .buf a => { s with buf := s.buf.write a (BitVec.ofNat 8 v) }

/-- `HostRead(addr)`: the value is handed to the host, nothing else changes (60_exceptions.md R252). -/
def State.hostRead (s : State) (a : Nat) : State :=
  { s with hostOut := s.readReg (hostReg s.cfg a) :: s.hostOut }

/-- `HostWrite(addr, v)` (10_state.md R33). -/
def State.hostWrite (s : State) (a v : Nat) : State := s.writeReg (hostReg s.cfg a) v

/-- The reset input: every piece of the unit's state at its reset value (70_reset_and_hazards.md R260). The
build, what the host still means to do, what it has read and the choices taken are not the unit's (log 7). -/
def State.assertReset (s : State) : State :=
  { State.resetOf s.cfg with hostIn := s.hostIn, hostOut := s.hostOut, tick := s.tick }

/-- One host action, already taken off the queue. A WAIT reaches this only when BUSY = 0: its last read of
STATUS (70_reset_and_hazards.md R264, log 5). -/
def State.hostAct (s : State) (a : HostAction) : State :=
  match a with
  | .read addr => s.hostRead addr
  | .write addr v => s.hostWrite addr v
  | .wait => s.hostRead 0x001
  | .reset => s.assertReset

end Sys2Proof.Machine
end

