-- ==== Sys2Proof/Machine/Unit.lean ====
section
/-! DEFINITION. The unit's step (70_reset_and_hazards.md R263) with the decode order (30_encoding.md R73), and
which agent moves (R20, R264, R265). -/

namespace Sys2Proof.Machine

/-- Steps 1 and 2 of the decode order (30_encoding.md R73): a word is dropped while FATAL = 1, and while
ERR = 1 unless it is a CLRERR (60_exceptions.md R243, R244). -/
def State.drops (s : State) : Bool := s.status.fatal || (s.status.err && opOf s.cmd != opClrerr)

/-- The unit's step: the decode order on the latched word, then `STATUS.BUSY <- 0`. -/
def unitStep (s : State) : Answer :=
  if s.drops then .next s.finish
  else
    match decode s.cmd with
    | .error _ => .next (s.raise .illegal).finish
    | .ok i => thenDo (exec i s) State.finish

/-- Who moves at a step. -/
inductive Turn where
  | unit
  | host
  | idle
  deriving DecidableEq, Repr

/-- Whether both agents could move: a command is in flight and the host has an access to make, other than a
WAIT, which only reads STATUS until the command is over (70_reset_and_hazards.md R264, R265). -/
def State.contested (s : State) : Bool :=
  match s.hostIn with
  | [] => false
  | .wait :: _ => false
  | _ => s.status.busy

/-- Who moves next. FREE VALUE (safe, log 4) when both could. -/
def State.turn (s : State) : Turn :=
  if s.contested then (if Config.hostFirst s.tick then .host else .unit)
  else if s.status.busy then .unit
  else if s.hostIn.isEmpty then .idle
  else .host

/-- The counter of open choices, advanced when one is taken. -/
def State.countTurn (s : State) : State := if s.contested then { s with tick := s.tick + 1 } else s

/-- The host's next action, taken off the queue and done. -/
def State.hostStep (s : State) : State :=
  match s.hostIn with
  | [] => s
  | a :: rest => State.hostAct { s with hostIn := rest } a

end Sys2Proof.Machine
end

