-- ==== Sys2Proof/Machine/Step.lean ====
section
/-! DEFINITION. One step of the machine, and placing a command for the next step. -/

namespace Sys2Proof.Machine

/-- One step: the unit's transition, one host action, or nothing when neither has one to make
(70_reset_and_hazards.md R263, 60_exceptions.md R259). -/
def step (s : State) : Host.Outcome State Fault Refusal :=
  match s.turn with
  | .unit => unitStep s.countTurn
  | .host => .next s.countTurn.hostStep
  | .idle => .next s

/-- The command of an opcode-table row latched, BUSY set, and no host action pending, so that the unit runs
it at the very next step (log 3). -/
def State.withFetchWord (s : State) (nbits w : Nat) : State :=
  { s.latch (tableWord nbits w) with hostIn := [] }

end Sys2Proof.Machine
end

