-- ==== Sys2Proof/Safety.lean ====
section
/-! DEFINITION. The terms claims are stated in: canonical unums and their fields, the number an endpoint
value is and the set an interval is, the opcode table as data, which flags and registers each command may
write, and the invariant of the machine. -/

namespace Sys2Proof.Machine

/-- Nothing stands at or above bit `numbits(u)` (10_state.md R24). -/
abbrev Canonical (E : Env) (u : Unum) : Prop := u < 2 ^ numbits E u

/-- `u` is the canonical unum of the six-tuple of 41_tag.md R121, field by field (10_state.md R23). -/
abbrev HasFields (E : Env) (u : Unum) (s : Bool) (e f : Nat) (ub : Bool) (es fs : Nat) : Prop :=
  signOf E u = s ∧ expoOf E u = e ∧ fracOf E u = f ∧ ubitOf E u = ub ∧ esOf E u = es ∧ fsOf E u = fs ∧
    Canonical E u

/-- The number `(-1)^sg * man * 2^exp` (10_state.md R27). -/
def Dyad.toRat (x : Dyad) : ℚ := (if x.sg then -1 else 1) * x.man * 2 ^ x.exp

/-- The extended numbers endpoints are compared in (43_compare_select.md R181). Every value the UBTU handles
is rational (00_scope.md R7). -/
abbrev ExtNum := WithBot (WithTop ℚ)

/-- `ext(p)` as an extended number (43_compare_select.md R181). -/
def Ext.toNum : Ext → ExtNum
  | .ninf => ⊥
  | .fin x => ((x.toRat : WithTop ℚ) : ExtNum)
  | .pinf => ((⊤ : WithTop ℚ) : ExtNum)

/-- The extended number of an endpoint. -/
def Gnum.toNum (p : Gnum) : ExtNum := p.ext.toNum

/-- `x` is an element of the interval `g`: an open end is excluded, a NaN has no element (10_state.md R27). -/
def Gbnd.Holds (g : Gbnd) (x : ExtNum) : Prop :=
  g.nan = false ∧ (if g.l.opn then g.l.toNum < x else g.l.toNum ≤ x) ∧
    (if g.r.opn then x < g.r.toNum else x ≤ g.r.toNum)

/-- `p`'s value is the value of an exact unum of the environment (42_pack.md R162, R164). -/
def Representable (E : Env) (p : Gnum) : Prop :=
  ∃ u, Canonical E u ∧ ubitOf E u = false ∧ (u2r E u).toNum = p.toNum

/-- An interval that is neither NaN nor ill-formed (43_compare_select.md R185). -/
abbrev Gbnd.Proper (g : Gbnd) : Prop := g.nan = false ∧ illformed g = false

/-- A bound whose two unums are canonical (10_state.md R24). -/
abbrev CanonicalBound (E : Env) (b : Ubound) : Prop := Canonical E b.l ∧ Canonical E b.r

/-! ### The unification controller (44_unify.md R212) -/

/-- The payload of `u` is the largest finite magnitude of its tag (41_tag.md R124). -/
abbrev AtWidest (E : Env) (u : Unum) : Prop :=
  expoOf E u = 2 ^ esOf E u - 1 ∧
    fracOf E u = if esOf E u = 2 ^ E.ess.toNat ∧ fsOf E u = 2 ^ E.fss.toNat then 2 ^ fsOf E u - 2
      else 2 ^ fsOf E u - 1

/-- Demoting the exponent of `u` gives the identical interval (44_unify.md R215). -/
abbrev DemeLossless (E : Env) (u : Unum) : Prop := identical (u2g E (deme E u)) (u2g E u) = true

/-- The run ends without a candidate: the bound unchanged, exit `x` (44_unify.md R212, R220). -/
abbrev Unified.Keeps (r : Unified) (b : Ubound) (x : UnifyExit) (ei fi : Nat) : Prop :=
  r.bound = b ∧ r.exit = x ∧ r.eiter = ei ∧ r.fiter = fi

/-- Step 10 of 44_unify.md R212 for the candidate `u` of the positive interval `g`, reached with exit `x`: the
singleton of `u`, its sign bit set when mirrored, if `u` encloses `g`; else the bound unchanged and FAIL. -/
abbrev Unified.Ends (r : Unified) (E : Env) (b : Ubound) (g : Gbnd) (u : Unum) (x : UnifyExit) (ei fi : Nat) :
    Prop :=
  (encloses (u2g E u) g = true →
    r.Keeps { p := false, l := if r.neg then u + 2 ^ (numbits E u - 1) else u, r := 0 } x ei fi) ∧
  (encloses (u2g E u) g = false → r.Keeps b .fail ei fi)

/-- `n` is the number of turns a loop takes that goes on while `goes`. -/
abbrev LoopTurns (goes : Nat → Prop) (n : Nat) : Prop := (∀ k, k < n → goes k) ∧ ¬ goes n

/-- Step 7 of 44_unify.md R212 (R213, R214, R217), for a left end that is not an open maxreal: the sliver at
the left end's value at the maximum tag (inside an open end, outside a closed one) is demoted, exponent first
and then fraction, to the widest of its tag, and is the candidate there. -/
def Unified.RunsOpenInf (r : Unified) (E : Env) (b : Ubound) (g : Gbnd) : Prop :=
  let x := r2u E g.l.val
  let wide := (promf E)^[2 ^ E.fss.toNat - fsOf E x] ((prome E)^[2 ^ E.ess.toNat - esOf E x] x)
  let half := 2 ^ (E.ess.toNat + E.fss.toNat)
  let first := if g.l.opn then wide + half else wide - half
  let afterE := fun k => (deme E)^[k] first
  let afterF := fun k => (demf E)^[k] (afterE r.eiter)
  LoopTurns (fun k => ¬ AtWidest E (afterE k) ∧ 1 < esOf E (afterE k)) r.eiter ∧
  LoopTurns (fun k => ¬ AtWidest E (afterF k) ∧ 1 < fsOf E (afterF k)) r.fiter ∧
  (AtWidest E (afterF r.fiter) → r.Ends E b g (afterF r.fiter) .openinf r.eiter r.fiter) ∧
  (¬ AtWidest E (afterF r.fiter) → r.Keeps b .fail r.eiter r.fiter)

/-- Steps 8 and 9 of 44_unify.md R212 (R213 to R215): the slivers at the two ends' values at one tag coincide,
or are demoted together, the exponent while that is lossless and then the fraction, until they coincide. -/
def Unified.RunsSearch (r : Unified) (E : Env) (b : Ubound) (g : Gbnd) : Prop :=
  let p := ppair E (r2u E g.l.val) (r2u E g.r.val)
  let half := 2 ^ (E.ess.toNat + E.fss.toNat)
  let ul := if g.l.opn then p.1 + half else p.1 - half
  let ur := if g.r.opn then p.2 - half else p.2 + half
  let el := fun k => (deme E)^[k] ul
  let er := fun k => (deme E)^[k] ur
  let fl := fun k => (demf E)^[k] (el r.eiter)
  let fr := fun k => (demf E)^[k] (er r.eiter)
  (ul = ur → r.Ends E b g ul .nudge 0 0) ∧
  (ul ≠ ur →
    LoopTurns (fun k => el k ≠ er k ∧ 1 < esOf E (el k) ∧ DemeLossless E (el k) ∧ DemeLossless E (er k))
      r.eiter ∧
    LoopTurns (fun k => fl k ≠ fr k ∧ 1 < fsOf E (fl k)) r.fiter ∧
    (fl r.fiter = fr r.fiter → r.Ends E b g (fl r.fiter) .search r.eiter r.fiter) ∧
    (fl r.fiter ≠ fr r.fiter → r.Keeps b .fail r.eiter r.fiter))

/-- Steps 6 to 10 of 44_unify.md R212 for the positive interval `g`, case by case in their order. The bits of
POSOPENINF and the steps of `RunsOpenInf` and `RunsSearch` are marked by the spec as general knowledge (log 9). -/
def Unified.RunsCandidate (r : Unified) (E : Env) (b : Ubound) (g : Gbnd) : Prop :=
  let em : Nat := 2 ^ E.ess.toNat
  let fm : Nat := 2 ^ E.fss.toNat
  let num := fun x : ℚ => ((x : WithTop ℚ) : ExtNum)
  let zero := g.l.toNum = num 0 ∧ g.r.inf = false ∧ g.r.toNum < num 1
  let atMaxreal := g.l.opn = true ∧
    g.l.toNum = num ((2 : ℚ) ^ (2 ^ (em - 1) : Int) * (2 - 2 ^ (1 - (fm : Int))))
  (zero → r.Ends E b g (zerocand E g.r.val) .zero 0 0) ∧
  (¬ zero → g.r.inf = true → g.r.opn = false → r.Keeps b .closedinf 0 0) ∧
  (¬ zero → g.r.inf = true → g.r.opn = true → atMaxreal →
    ∃ u, HasFields E u false (2 ^ em - 1) (2 ^ fm - 2) true em fm ∧ r.Ends E b g u .satmax 0 0) ∧
  (¬ zero → g.r.inf = true → g.r.opn = true → ¬ atMaxreal → r.RunsOpenInf E b g) ∧
  (¬ zero → g.r.inf = false → r.RunsSearch E b g)

/-! ### The opcode table (30_encoding.md R71, R76) -/

/-- What a register field of a row selects. -/
inductive FieldUse where
  | none
  | fileU
  | fileB
  | fileG
  deriving DecidableEq, Repr

/-- The values a register field may hold: 0 when unused, else below the file's count (30_encoding.md R74). -/
def FieldUse.Allows : FieldUse → Nat → Prop
  | .none, x => x = 0
  | .fileU, x => x < 8
  | .fileB, x => x < 4
  | .fileG, x => x < 4

/-- What the immediate of a row holds. -/
inductive ImmUse where
  | zero
  | address
  | constant
  | sizes
  | pairFlag
  deriving DecidableEq, Repr

/-- The immediates 30_encoding.md R71 admits. -/
def ImmUse.Allows : ImmUse → Nat → Prop
  | .zero, x => x = 0
  | .address, _ => True
  | .constant, _ => True
  | .sizes, x => slice x 8 4 = 0
  | .pairFlag, x => slice x 1 11 = 0

/-- One row of the opcode map. -/
structure OpcodeRow where
  op : Nat
  rd : FieldUse
  ra : FieldUse
  rb : FieldUse
  imm : ImmUse
  deriving DecidableEq, Repr

/-- The opcode map of 30_encoding.md R76, row by row. -/
def opcodeTable : List OpcodeRow :=
  [⟨0x00, .none, .none, .none, .zero⟩, ⟨0x01, .none, .none, .none, .sizes⟩,
   ⟨0x02, .none, .none, .none, .zero⟩, ⟨0x03, .none, .none, .none, .zero⟩,
   ⟨0x08, .fileU, .none, .none, .constant⟩, ⟨0x09, .fileU, .fileU, .none, .zero⟩,
   ⟨0x0A, .fileB, .fileB, .none, .zero⟩, ⟨0x0B, .fileG, .fileG, .none, .zero⟩,
   ⟨0x0C, .fileB, .fileU, .fileU, .pairFlag⟩, ⟨0x0D, .fileU, .fileB, .none, .zero⟩,
   ⟨0x0E, .fileU, .fileB, .none, .zero⟩, ⟨0x10, .fileU, .none, .none, .address⟩,
   ⟨0x11, .none, .fileU, .none, .address⟩, ⟨0x12, .fileB, .none, .none, .address⟩,
   ⟨0x13, .none, .fileB, .none, .address⟩] ++
  [⟨0x20, .none, .fileU, .none, .zero⟩, ⟨0x21, .fileU, .none, .none, .zero⟩,
   ⟨0x22, .fileU, .fileU, .none, .zero⟩, ⟨0x23, .fileU, .fileU, .none, .zero⟩,
   ⟨0x24, .fileU, .fileU, .none, .zero⟩, ⟨0x25, .fileU, .fileU, .none, .zero⟩,
   ⟨0x26, .fileU, .fileU, .none, .zero⟩, ⟨0x30, .fileG, .fileU, .none, .zero⟩,
   ⟨0x31, .fileG, .fileB, .none, .zero⟩, ⟨0x32, .fileU, .fileG, .none, .zero⟩,
   ⟨0x33, .fileU, .fileG, .none, .zero⟩, ⟨0x34, .fileB, .fileG, .none, .zero⟩] ++
  [⟨0x40, .none, .fileG, .fileG, .zero⟩, ⟨0x41, .none, .fileG, .fileG, .zero⟩,
   ⟨0x42, .none, .fileG, .fileG, .zero⟩, ⟨0x43, .none, .fileG, .fileG, .zero⟩,
   ⟨0x44, .none, .fileG, .fileG, .zero⟩, ⟨0x48, .fileG, .fileG, .fileG, .zero⟩,
   ⟨0x49, .fileG, .fileG, .fileG, .zero⟩, ⟨0x4A, .fileG, .fileG, .fileG, .zero⟩,
   ⟨0x4B, .fileG, .fileG, .fileG, .zero⟩, ⟨0x4C, .fileG, .fileG, .none, .zero⟩,
   ⟨0x50, .fileB, .fileB, .none, .zero⟩]

/-- The word selects a row with legal fields; a singleton MKB (`imm[0] = 0`) has `rb = 0`
(30_encoding.md R73 step 4, 40_env_move.md R98). -/
def LegalWord (w : Word) : Prop :=
  ∃ r ∈ opcodeTable, (fieldsOf w).op = r.op ∧ r.rd.Allows (fieldsOf w).rd ∧ r.ra.Allows (fieldsOf w).ra ∧
    r.rb.Allows (fieldsOf w).rb ∧ r.imm.Allows (fieldsOf w).imm ∧
    (r.imm = .pairFlag → slice (fieldsOf w).imm 0 1 = 0 → (fieldsOf w).rb = 0)

/-! ### What each command may write -/

/-- The result flags (10_state.md R34). -/
inductive Flag where
  | t
  | clip
  | inex
  | lim
  | uni
  | nanf
  deriving DecidableEq, Repr

/-- The value of a result flag. -/
def Status.flag (x : Status) : Flag → Bool
  | .t => x.t
  | .clip => x.clip
  | .inex => x.inex
  | .lim => x.lim
  | .uni => x.uni
  | .nanf => x.nanf

/-- The "written by" column of 10_state.md R34; SETENV and CLRENV clear every result flag (R22). -/
def flagsWritten : Instr → List Flag
  | .setenv _ _ | .clrenv => [.t, .clip, .inex, .lim, .uni, .nanf]
  | .clt _ _ | .cgt _ _ | .cneq _ _ | .cseq _ _ | .cidn _ _ => [.t]
  | .clipl _ _ _ | .cliph _ _ _ => [.clip, .nanf]
  | .demf _ _ | .deme _ _ => [.inex, .lim]
  | .encl _ _ | .encr _ _ => [.inex, .nanf]
  | .promf _ _ | .prome _ _ | .promp _ _ => [.lim]
  | .pack _ _ | .unify _ _ => [.uni, .nanf]
  | .u2g _ _ | .b2g _ _ | .min _ _ _ | .max _ _ _ | .negg _ _ => [.nanf]
  | .nop | .clrerr | .ldc _ _ | .movu _ _ | .movb _ _ | .movg _ _ | .mkb _ _ _ _ | .getl _ _ | .getr _ _
  | .ldu _ _ | .stu _ _ | .ldb _ _ | .stb _ _ | .dtag _ | .etag _ => []

/-- The pieces of data state a command can name or write as a side effect. -/
inductive Place where
  | regU (i : UReg)
  | regB (j : BReg)
  | regG (k : GReg)
  | env
  | tag
  | fexp
  | ffrac
  | uctl
  | buf
  deriving DecidableEq, Repr

/-- Whether a command may write a place: the destinations of its rule, and for SETENV and CLRENV everything
but the buffer (10_state.md R22). -/
def mayWrite : Instr → Place → Bool
  | .setenv _ _, p | .clrenv, p => p != .buf
  | .ldc rd _, p | .movu rd _, p | .getl rd _, p | .getr rd _, p | .ldu rd _, p | .promf rd _, p
  | .prome rd _, p | .demf rd _, p | .deme rd _, p | .encl rd _, p | .encr rd _, p => p == .regU rd
  | .promp rd ra, p => p == .regU rd || p == .regU ra
  | .etag rd, p => p == .regU rd || p == .tag
  | .movb rd _, p | .mkb rd _ _ _, p | .ldb rd _, p => p == .regB rd
  | .pack rd _, p | .unify rd _, p => p == .regB rd || p == .uctl
  | .movg rd _, p | .u2g rd _, p | .b2g rd _, p | .min rd _ _, p | .max rd _ _, p | .clipl rd _ _, p
  | .cliph rd _ _, p | .negg rd _, p => p == .regG rd
  | .dtag _, p => p == .tag || p == .fexp || p == .ffrac
  | .stu _ _, p | .stb _ _, p => p == .buf
  | .nop, _ | .clrerr, _ | .clt _ _, _ | .cgt _ _, _ | .cneq _ _, _ | .cseq _ _, _ | .cidn _ _, _ => false

/-- The buffer bytes a store writes: from its address, as many as the operand's packed image has (20_memory.md
R54, R56, R57); none for any other command. -/
def State.storedBytes (s : State) : Instr → Nat → Prop
  | .stu ra addr, a => addr.toNat ≤ a ∧ a < addr.toNat + (packU s.env (s.readU ra)).length
  | .stb ra addr, a => addr.toNat ≤ a ∧ a < addr.toNat + (packB s.env (s.readB ra)).length
  | _, _ => False

/-- The environment is within the caps of the build (40_env_move.md R91). -/
abbrev State.envWithinCaps (s : State) : Prop :=
  s.env.ess.toNat ≤ s.cfg.essCap ∧ s.env.fss.toNat ≤ s.cfg.fssCap

/-- An endpoint value in the widths of a G register (10_state.md R31). -/
abbrev Storable (c : Config) (p : Gnum) : Prop := p.val.man < 2 ^ c.gmw ∧ expFits c p.val.exp = true

/-- `z` is what a G register holds after an endpoint `p` is written normalised (10_state.md R27): flags as
they are, within the register's widths, the same number wherever the number has an encoding in those widths (as
a value that comes from a register has), and the normalised encoding wherever that one fits. Which of the other
encodings is written where it does not fit, the spec leaves open (log 8). -/
def WrittenNormalised (c : Config) (z p : Gnum) : Prop :=
  z.opn = p.opn ∧ z.inf = p.inf ∧ Storable c z ∧
    ((∃ q : Gnum, Storable c q ∧ q.toNum = p.toNum) → z.toNum = p.toNum) ∧
    (Storable c p.norm → z = p.norm)

/-- Every unum in a U or B register is canonical (10_state.md R24). -/
abbrev State.allCanonical (s : State) : Prop :=
  (∀ i : UReg, Canonical s.env (s.readU i)) ∧
  ∀ j : BReg, Canonical s.env (s.readB j).l ∧ Canonical s.env (s.readB j).r

/-- Every unum in a U or B register fits the register's `W` bits (10_state.md R31). -/
abbrev State.withinWidth (s : State) : Prop :=
  (∀ i : UReg, s.readU i < 2 ^ s.cfg.width) ∧
  ∀ j : BReg, (s.readB j).l < 2 ^ s.cfg.width ∧ (s.readB j).r < 2 ^ s.cfg.width

/-- ERRCODE says why: 0xFF in the fatal state, 1 to 5 while ERR = 1, 0 otherwise; ERR and FATAL are never both
1 (60_exceptions.md R242 to R244). -/
abbrev State.errorsLegal (s : State) : Prop :=
  (s.status.err = true → s.status.fatal = false) ∧
  (s.status.fatal = true → s.errcode = 0xFF) ∧
  (s.status.err = true → 1 ≤ s.errcode.toNat ∧ s.errcode.toNat ≤ 5) ∧
  (s.status.err = false → s.status.fatal = false → s.errcode = 0)

/-- The invariant of the machine: a legal build, an environment within its caps, canonical registers, values
within their widths, the buffer in canonical form and within its size, and error codes that say why. -/
abbrev State.Inv (s : State) : Prop :=
  s.cfg.wf ∧ s.envWithinCaps ∧ (s.env.v = false → s.env = Env.init) ∧
  (s.env.v = true → s.allCanonical) ∧ s.withinWidth ∧
  (∀ k : GReg, Storable s.cfg (s.readG k).l ∧ Storable s.cfg (s.readG k).r) ∧
  s.fexp < 2 ^ 2 ^ s.cfg.essCap ∧ s.ffrac < 2 ^ 2 ^ s.cfg.fssCap ∧
  Memory.wf s.buf ∧ (∀ c ∈ s.buf, c.1 < s.cfg.bufsz) ∧ s.errorsLegal

end Sys2Proof.Machine
end

