-- ==== Sys2Proof/Certificates/Slice0/Obligations.lean ====
section
/-! DEFINITION. The statements for the provers, one `def Obligations.<Name> : Prop` each. `OBLIGATIONS.json`
says which rule of spec/ each one formalises. -/

section
open Sys2Proof Sys2Proof.Machine

/-! ### The command word (30_encoding.md) -/

/-- Decoding the word of a well-formed command gives the command back, for every operand (R76, R78). -/
def Obligations.DecodeOfEncodeIsTheCommand : Prop :=
  ∀ i : Instr, i.wf = true → decode (encode i) = .ok i ∧ decodeTableWord 32 (encode i).toNat = some i

/-- A word that decodes is the word of the command it decodes to, so no two words mean one command (R75). -/
def Obligations.EncodeOfDecodeIsTheWord : Prop :=
  ∀ (w : Word) (i : Instr), decode w = .ok i → i.wf = true ∧ encode i = w

/-- The words that decode are those of the opcode map, no two rows share an opcode, and every other word
raises E_ILLEGAL and changes nothing else (R74, R75). -/
def Obligations.LegalWordsAreTheOpcodeMap : Prop :=
  (∀ w : Word, (∃ i, decode w = .ok i) ↔ LegalWord w) ∧
  opcodeTable.Pairwise (fun x y => x.op ≠ y.op) ∧
  ∀ s : State, s.turn = .unit → s.drops = false → ¬ LegalWord s.cmd →
    step s = .next { s.countTurn with
      status := { s.status with err := true, busy := false }, errcode := 0x01 }

/-- Words written out from the spec's encodings decode to the commands they stand for (R78 and the examples of
R90, R91, R93, R98). -/
def Obligations.WrittenWordsDecode : Prop :=
  decode 0x22100000#32 = .ok (.promf 1 0) ∧ decode 0x01000034#32 = .ok (.setenv 3 4) ∧
  decode 0x0C012001#32 = .ok (.mkb 0 1 2 true) ∧ decode 0x10300010#32 = .ok (.ldu 3 0x10) ∧
  decode 0x00000000#32 = .ok .nop ∧ decode 0x03000000#32 = .ok .clrerr ∧
  decode 0x26010000#32 = .ok (.promp 0 1) ∧ decode 0x30200000#32 = .ok (.u2g 2 0) ∧
  decode 0x40012000#32 = .ok (.clt 1 2) ∧ decode 0x48312000#32 = .ok (.min 3 1 2) ∧
  decode 0x50100000#32 = .ok (.unify 1 0) ∧ decode 0x04000000#32 = .error .reservedOpcode ∧
  decode 0x0C012000#32 = .error .unusedField

/-! ### The step (70_reset_and_hazards.md) -/

/-- When the unit moves and the latched word decodes to `i`, the step is `exec i`, with BUSY cleared after it.
The only thing before it is the model's counter of open choices, advanced when the host could have moved too
(log 4). A command placed by `withFetchWord` is the one the next step runs. -/
def Obligations.StepRunsTheDecodedCommand : Prop :=
  (∀ (s : State) (i : Instr) (t : State), s.turn = .unit → s.drops = false → decode s.cmd = .ok i →
    exec i s.countTurn = .next t →
    step s = .next { t with status := { t.status with busy := false } }) ∧
  (∀ s : State, s.contested = false → s.countTurn = s) ∧
  (∀ s : State, s.contested = true → s.countTurn = { s with tick := s.tick + 1 }) ∧
  ∀ (s : State) (i : Instr) (t : State), i.wf = true → s.status.err = false → s.status.fatal = false →
    exec i (s.withFetchWord 32 (encode i).toNat) = .next t →
    step (s.withFetchWord 32 (encode i).toNat) =
      .next { t with status := { t.status with busy := false } }

/-- The unit's step is the decode order and is total: every state has a next state, and after the unit's step
BUSY is 0 (R263 with R73). -/
def Obligations.UnitStepIsTotalAndFollowsTheDecodeOrder : Prop :=
  (∀ s : State, ∃ t, step s = .next t) ∧
  ∀ s : State,
    (s.status.fatal = true ∨ (s.status.err = true ∧ opOf s.cmd ≠ 0x03) →
      unitStep s = .next { s with status := { s.status with busy := false } }) ∧
    (s.status.fatal = false → s.status.err = false ∨ opOf s.cmd = 0x03 →
      (∀ x, decode s.cmd = .error x →
        unitStep s = .next { s with
          status := { s.status with err := true, busy := false }, errcode := 0x01 }) ∧
      ∀ i, decode s.cmd = .ok i → ∃ t, exec i s = .next t ∧
        unitStep s = .next { t with status := { t.status with busy := false } } ∧
        (s.env.v = false → i ≠ .nop → (∀ e f, i ≠ .setenv e f) → i ≠ .clrenv → i ≠ .clrerr →
          t = { s with status := { s.status with err := true, busy := false }, errcode := 0x02 }))

/-- While ERR = 1 every word whose opcode is not CLRERR's is dropped: BUSY is cleared and nothing else
changes (60_exceptions.md R243). -/
def Obligations.ErrorDropsEveryWordButClrerr : Prop :=
  ∀ s : State, s.turn = .unit → s.status.err = true → opOf s.cmd ≠ 0x03 →
    step s = .next { s.countTurn with status := { s.status with busy := false } }

/-- SETENV beyond the caps sets FATAL and 0xFF and changes nothing else; while FATAL = 1 every word is dropped,
CLRERR too; host accesses still work; only reset clears FATAL (60_exceptions.md R244). -/
def Obligations.FatalIsLeftOnlyByReset : Prop :=
  (∀ (s : State) (ess fss : BitVec 4), s.cfg.essCap < ess.toNat ∨ s.cfg.fssCap < fss.toNat →
    exec (.setenv ess fss) s = .next { s with
      status := { s.status with fatal := true, busy := false }, errcode := 0xFF }) ∧
  (∀ s : State, s.turn = .unit → s.status.fatal = true →
    step s = .next { s.countTurn with status := { s.status with busy := false } }) ∧
  (∀ s : State, s.status.fatal = true → s.turn = .host → step s = .next s.countTurn.hostStep) ∧
  ∀ s t : State, s.status.fatal = true → step s = .next t →
    t.status.fatal = true ∨ ∃ rest, s.hostIn = .reset :: rest

/-- An access while a command is in flight happens wholly before or wholly after the unit's step, the choice
left open (R265, log 4); otherwise the one agent that can move does, in the order of the host's queue, or none
(log 6). A read taken at a step is a host read, a write a host write. -/
def Obligations.HostAccessIsWhollyBeforeOrAfterTheStep : Prop :=
  (∀ (s : State) (a : HostAction) (rest : List HostAction), s.status.busy = true → s.hostIn = a :: rest →
    a ≠ .wait →
    step s = .next (State.hostAct { s with hostIn := rest, tick := s.tick + 1 } a) ∨
    step s = unitStep { s with tick := s.tick + 1 }) ∧
  (∀ s : State, s.status.busy = true → (s.hostIn = [] ∨ ∃ rest, s.hostIn = .wait :: rest) →
    step s = unitStep s) ∧
  (∀ (s : State) (a : HostAction) (rest : List HostAction), s.status.busy = false → s.hostIn = a :: rest →
    step s = .next (State.hostAct { s with hostIn := rest } a)) ∧
  (∀ s : State, s.status.busy = false → s.hostIn = [] → step s = .next s) ∧
  ∀ (s : State) (a v : Nat),
    State.hostAct s (.read a) = s.hostRead a ∧ State.hostAct s (.write a v) = s.hostWrite a v

/-- The handshake (R264): a write of CMD latches and sets BUSY, or sets OVR and is lost; a read of STATUS has
no side effect; a WAIT holds the host until BUSY is 0; OVR stays until CLRERR or reset and blocks no command.
That a WAIT hands over exactly one value of STATUS, and none while BUSY = 1, is the model's choice (log 5): R268
leaves the number of reads open. -/
def Obligations.CommandHandshake : Prop :=
  (∀ (s : State) (v : Nat), s.status.busy = false →
    s.hostWrite 0x000 v = { s with
      cmd := BitVec.ofNat 32 v, status := { s.status with busy := true } }) ∧
  (∀ (s : State) (v : Nat), s.status.busy = true →
    s.hostWrite 0x000 v = { s with status := { s.status with ovr := true } }) ∧
  (∀ s : State, s.hostRead 0x001 = { s with hostOut := s.status.word :: s.hostOut }) ∧
  (∀ (s : State) (rest : List HostAction), s.hostIn = .wait :: rest →
    (s.status.busy = true → step s = unitStep s) ∧
    (s.status.busy = false →
      step s = .next { s with hostIn := rest, hostOut := s.status.word :: s.hostOut })) ∧
  (∀ s t : State, s.status.ovr = true → step s = .next t → t.status.ovr = false →
    decode s.cmd = .ok .clrerr ∨ ∃ rest, s.hostIn = .reset :: rest) ∧
  ∀ (s : State) (x : Bool), State.drops { s with status := { s.status with ovr := x } } = s.drops

/-! ### The host's registers (10_state.md R33) -/

/-- A host read gives the register of the map, whole, and changes nothing else; CMD and every address outside
the map read 0. -/
def Obligations.HostReadsTheRegisterMap : Prop :=
  ∀ s : State,
    let gives := fun (a v : Nat) => s.hostRead a = { s with hostOut := v :: s.hostOut }
    gives 0x000 0 ∧ gives 0x001 s.status.word ∧ gives 0x002 s.errcode.toNat ∧ gives 0x003 s.env.word ∧
    gives 0x004 s.tag.word ∧ gives 0x005 s.fexp ∧ gives 0x006 s.uctl.word ∧ gives 0x010 s.ffrac ∧
    (∀ i : UReg, gives (0x100 + i) (s.readU i)) ∧
    (∀ j : BReg, gives (0x110 + 3 * j) (s.readB j).p.toNat ∧ gives (0x110 + 3 * j + 1) (s.readB j).l ∧
      gives (0x110 + 3 * j + 2) (s.readB j).r) ∧
    (∀ k : GReg,
      gives (0x120 + 8 * k) (s.readG k).nan.toNat ∧
      gives (0x120 + 8 * k + 1) ((s.readG k).l.opn.toNat + 2 * (s.readG k).l.inf.toNat +
        4 * (s.readG k).l.val.sg.toNat) ∧
      gives (0x120 + 8 * k + 2) ((s.readG k).l.val.exp % 2 ^ s.cfg.gew).toNat ∧
      gives (0x120 + 8 * k + 3) (s.readG k).l.val.man ∧
      gives (0x120 + 8 * k + 4) ((s.readG k).r.opn.toNat + 2 * (s.readG k).r.inf.toNat +
        4 * (s.readG k).r.val.sg.toNat) ∧
      gives (0x120 + 8 * k + 5) ((s.readG k).r.val.exp % 2 ^ s.cfg.gew).toNat ∧
      gives (0x120 + 8 * k + 6) (s.readG k).r.val.man ∧ gives (0x120 + 8 * k + 7) 0) ∧
    (∀ a, a < s.cfg.bufsz → gives (0x1000 + a) (s.buf.read a).toNat) ∧
    ∀ a, 0x006 < a → a ≠ 0x010 → a < 0x100 ∨ 0x108 ≤ a → a < 0x110 ∨ 0x11C ≤ a → a < 0x120 ∨ 0x140 ≤ a →
      a < 0x1000 ∨ 0x1000 + s.cfg.bufsz ≤ a → gives a 0

/-- A host write of a unum keeps the low `W` bits and, when an environment is established, clears the bits at
and above `numbits` (R24, R33); a write of L or R leaves P, a write of P keeps bit 0 and leaves L and R. -/
def Obligations.HostWritesUnums : Prop :=
  ∀ (s : State) (v : Nat),
    let w := v % 2 ^ s.cfg.width
    let x := if s.env.v then w % 2 ^ numbits s.env w else w
    (∀ i : UReg, s.hostWrite (0x100 + i) v = { s with u := s.u.set i x }) ∧
    ∀ j : BReg,
      s.hostWrite (0x110 + 3 * j) v =
        { s with b := s.b.set j { p := v.testBit 0, l := (s.readB j).l, r := (s.readB j).r } } ∧
      s.hostWrite (0x110 + 3 * j + 1) v =
        { s with b := s.b.set j { p := (s.readB j).p, l := x, r := (s.readB j).r } } ∧
      s.hostWrite (0x110 + 3 * j + 2) v =
        { s with b := s.b.set j { p := (s.readB j).p, l := (s.readB j).l, r := x } }

/-- A host write of TAG, FEXP, FFRAC, a G register or a buffer byte keeps the low bits that fit (TAG.NB is
read only); a write of a read-only register or outside the map is ignored (R33, 60_exceptions.md R252). -/
def Obligations.HostWritesOtherRegisters : Prop :=
  ∀ (s : State) (v : Nat),
    s.hostWrite 0x004 v = { s with tag := { s.tag with
      fs := BitVec.ofNat 12 v, es := BitVec.ofNat 5 (v / 2 ^ 12), ub := v.testBit 17, sg := v.testBit 18 } } ∧
    s.hostWrite 0x005 v = { s with fexp := v % 2 ^ 2 ^ s.cfg.essCap } ∧
    s.hostWrite 0x010 v = { s with ffrac := v % 2 ^ 2 ^ s.cfg.fssCap } ∧
    (∀ k : GReg,
      let g := s.readG k
      let becomes := fun (a : Nat) (h : Gbnd) => s.hostWrite a v = { s with g := s.g.set k h }
      becomes (0x120 + 8 * k) { g with nan := v.testBit 0 } ∧
      becomes (0x120 + 8 * k + 1) { g with
        l := { opn := v.testBit 0, inf := v.testBit 1, val := { g.l.val with sg := v.testBit 2 } } } ∧
      becomes (0x120 + 8 * k + 3) { g with
        l := { g.l with val := { g.l.val with man := v % 2 ^ s.cfg.gmw } } } ∧
      becomes (0x120 + 8 * k + 4) { g with
        r := { opn := v.testBit 0, inf := v.testBit 1, val := { g.r.val with sg := v.testBit 2 } } } ∧
      becomes (0x120 + 8 * k + 6) { g with
        r := { g.r with val := { g.r.val with man := v % 2 ^ s.cfg.gmw } } } ∧
      (1 ≤ s.cfg.gew → ∃ e : Int, -(2 ^ (s.cfg.gew - 1)) ≤ e ∧ e < 2 ^ (s.cfg.gew - 1) ∧
        (e % 2 ^ s.cfg.gew).toNat = v % 2 ^ s.cfg.gew ∧
        becomes (0x120 + 8 * k + 2) { g with l := { g.l with val := { g.l.val with exp := e } } } ∧
        becomes (0x120 + 8 * k + 5) { g with r := { g.r with val := { g.r.val with exp := e } } })) ∧
    (∀ a, a < s.cfg.bufsz → Memory.wf s.buf → ∃ m, s.hostWrite (0x1000 + a) v = { s with buf := m } ∧
      Memory.wf m ∧ m.read a = BitVec.ofNat 8 v ∧ ∀ c, c ≠ a → m.read c = s.buf.read c) ∧
    (∀ a, a = 0x001 ∨ a = 0x002 ∨ a = 0x003 ∨ a = 0x006 → s.hostWrite a v = s) ∧
    (∀ k : GReg, s.hostWrite (0x120 + 8 * k + 7) v = s) ∧
    ∀ a, 0x006 < a → a ≠ 0x010 → a < 0x100 ∨ 0x108 ≤ a → a < 0x110 ∨ 0x11C ≤ a → a < 0x120 ∨ 0x140 ≤ a →
      a < 0x1000 ∨ 0x1000 + s.cfg.bufsz ≤ a → s.hostWrite a v = s

/-- The bits of the STATUS, ENV, TAG and UCTL words (R21, R34, R35, R38). -/
def Obligations.RegisterWordsHaveTheirFields : Prop :=
  (∀ x : Status, x.word.testBit 0 = x.busy ∧ x.word.testBit 1 = x.err ∧ x.word.testBit 2 = x.fatal ∧
    x.word.testBit 3 = x.ovr ∧ x.word.testBit 4 = x.t ∧ x.word.testBit 5 = x.clip ∧
    x.word.testBit 6 = x.inex ∧ x.word.testBit 7 = x.lim ∧ x.word.testBit 8 = x.uni ∧
    x.word.testBit 9 = x.nanf ∧ x.word < 2 ^ 10) ∧
  (∀ E : Env, slice E.word 0 4 = E.fss.toNat ∧ slice E.word 4 4 = E.ess.toNat ∧
    E.word.testBit 8 = E.v ∧ E.word < 2 ^ 9) ∧
  (∀ x : Tag, slice x.word 0 12 = x.fs.toNat ∧ slice x.word 12 5 = x.es.toNat ∧ x.word.testBit 17 = x.ub ∧
    x.word.testBit 18 = x.sg ∧ x.word.testBit 19 = false ∧ slice x.word 20 12 = x.nb.toNat ∧
    x.word < 2 ^ 32) ∧
  ∀ x : Uctl, slice x.word 0 4 = x.exit.toNat ∧ slice x.word 4 5 = x.eiter.toNat ∧
    slice x.word 9 12 = x.fiter.toNat ∧ x.word.testBit 21 = x.neg ∧ x.word < 2 ^ 22

/-! ### Reset and the invariant -/

/-- Reset gives every piece of state its value, `State.reset` is such a state, reset is the only way out of the
fatal state, and a reset asserted while a command is in flight comes before or after it (R260). The model's
choices: which build `State.reset` stands for (log 1), so the statement is for every build; that the reset input
keeps the build, the rest of the host's queue, the values read and the counter of open choices (log 7), which
advances when the reset input and a command in flight compete (log 4). -/
def Obligations.ResetGivesEveryStateItsValue : Prop :=
  (∀ c : Config,
    let r := State.resetOf c
    r.cfg = c ∧ r.env = ⟨false, 0, 0⟩ ∧
    r.status = ⟨false, false, false, false, false, false, false, false, false, false⟩ ∧
    r.errcode = 0 ∧ r.cmd = 0 ∧ r.tag = ⟨0, 0, false, false, 0⟩ ∧ r.fexp = 0 ∧ r.ffrac = 0 ∧
    r.uctl = ⟨0, 0, 0, false⟩ ∧ (∀ i, r.readU i = 0) ∧ (∀ j, r.readB j = ⟨false, 0, 0⟩) ∧
    (∀ k, r.readG k = ⟨false, ⟨⟨false, 0, 0⟩, false, false⟩, ⟨⟨false, 0, 0⟩, false, false⟩⟩) ∧
    ∀ a, r.buf.read a = 0) ∧
  (∃ c, State.reset = State.resetOf c) ∧
  (∀ (s : State) (rest : List HostAction), s.hostIn = .reset :: rest → s.status.busy = false →
    step s = .next { State.resetOf s.cfg with hostIn := rest, hostOut := s.hostOut, tick := s.tick }) ∧
  (∀ (s : State) (rest : List HostAction), s.hostIn = .reset :: rest → s.status.busy = true →
    step s = .next { State.resetOf s.cfg with
      hostIn := rest, hostOut := s.hostOut, tick := s.tick + 1 } ∨
    step s = unitStep { s with tick := s.tick + 1 }) ∧
  ∀ s t : State, s.status.fatal = true → step s = .next t → t.status.fatal = false →
    ∃ rest, s.hostIn = .reset :: rest

/-- The state after reset meets the invariant. -/
def Obligations.ResetSatisfiesTheInvariant : Prop := State.reset.Inv

/-- Every step keeps the invariant: canonical unums, values within their widths, the buffer's canonical form and
size, an environment within the caps, error codes that say why (10_state.md R24, R31; 60_exceptions.md R242). -/
def Obligations.StepKeepsTheInvariant : Prop :=
  ∀ s t : State, s.Inv → step s = .next t → t.Inv

/-! ### What no command changes, and errors -/

/-- A result flag is written only by the commands 10_state.md R34 lists for it, and by SETENV and CLRENV, which
clear all of them (R22). -/
def Obligations.ResultFlagsChangeOnlyByTheirCommands : Prop :=
  ∀ (i : Instr) (s t : State) (f : Flag), exec i s = .next t → f ∉ flagsWritten i →
    t.status.flag f = s.status.flag f

/-- What a command leaves unchanged: every register but its destinations, every byte of the buffer but those it
stores, the special registers it does not name, and the model's own fields. -/
def Obligations.CommandsChangeOnlyTheirDestinations : Prop :=
  ∀ (i : Instr) (s t : State), exec i s = .next t →
    (∀ r, mayWrite i (.regU r) = false → t.readU r = s.readU r) ∧
    (∀ r, mayWrite i (.regB r) = false → t.readB r = s.readB r) ∧
    (∀ r, mayWrite i (.regG r) = false → t.readG r = s.readG r) ∧
    (mayWrite i .env = false → t.env = s.env) ∧ (mayWrite i .tag = false → t.tag = s.tag) ∧
    (mayWrite i .fexp = false → t.fexp = s.fexp) ∧ (mayWrite i .ffrac = false → t.ffrac = s.ffrac) ∧
    (mayWrite i .uctl = false → t.uctl = s.uctl) ∧
    (i ≠ .clrerr → t.status.ovr = s.status.ovr) ∧
    ((∀ e f, i ≠ .setenv e f) → t.status.fatal = s.status.fatal) ∧
    t.cfg = s.cfg ∧ t.cmd = s.cmd ∧ t.hostIn = s.hostIn ∧ t.hostOut = s.hostOut ∧ t.tick = s.tick ∧
    (Memory.wf s.buf → ∀ a, ¬ s.storedBytes i a → t.buf.read a = s.buf.read a)

/-- A command that raises an error writes nothing else: no register, no result flag, no buffer byte
(60_exceptions.md R241). -/
def Obligations.AnErrorWritesNothingElse : Prop :=
  ∀ (i : Instr) (s t : State), exec i s = .next t → s.status.err = false → t.status.err = true →
    ∃ c : BitVec 8, 2 ≤ c.toNat ∧ c.toNat ≤ 5 ∧
      t = { s with status := { s.status with err := true, busy := false }, errcode := c }

/-- Without an environment every command but NOP, SETENV, CLRENV and CLRERR raises E_NOENV (10_state.md R21,
30_encoding.md R73 step 5). -/
def Obligations.CommandsNeedAnEnvironment : Prop :=
  ∀ (i : Instr) (s : State), s.env.v = false → i ≠ .nop → (∀ e f, i ≠ .setenv e f) → i ≠ .clrenv →
    i ≠ .clrerr →
    exec i s = .next { s with status := { s.status with err := true, busy := false }, errcode := 0x02 }

/-! ### Environment, constants, moves (40_env_move.md) -/

/-- NOP does nothing and is dropped while ERR = 1 (R90); CLRERR clears ERR, OVR and ERRCODE and nothing else,
is the one command executed while ERR = 1, and is itself decoded strictly (R93, 60_exceptions.md R248). -/
def Obligations.NopAndClrerr : Prop :=
  encode .nop = 0x00000000#32 ∧ encode .clrerr = 0x03000000#32 ∧
  (∀ s : State, exec .nop s = .next s) ∧
  (∀ s : State, s.turn = .unit → s.status.err = true → s.cmd = 0x00000000#32 →
    step s = .next { s.countTurn with status := { s.status with busy := false } }) ∧
  (∀ s : State, exec .clrerr s =
    .next { s with status := { s.status with err := false, ovr := false }, errcode := 0 }) ∧
  (∀ s : State, s.turn = .unit → s.status.fatal = false → s.cmd = 0x03000000#32 →
    step s = .next { s.countTurn with
      status := { s.status with err := false, ovr := false, busy := false }, errcode := 0 }) ∧
  ∀ s : State, s.turn = .unit → s.status.fatal = false → opOf s.cmd = 0x03 → s.cmd ≠ 0x03000000#32 →
    step s = .next { s.countTurn with
      status := { s.status with err := true, busy := false }, errcode := 0x01 }

/-- SETENV within the caps establishes the environment and clears the data state, beyond them it is fatal
(R91); CLRENV tears the environment down and clears the data state (R92); BUF, ERR, OVR, FATAL and ERRCODE are
kept (10_state.md R22). -/
def Obligations.EnvironmentCommands : Prop :=
  (∀ ess fss : BitVec 4, opOf (encode (.setenv ess fss)) = 0x01) ∧ opOf (encode .clrenv) = 0x02 ∧
  encode (.setenv 3 4) = 0x01000034#32 ∧
  (∀ (s : State) (ess fss : BitVec 4),
    (ess.toNat ≤ s.cfg.essCap → fss.toNat ≤ s.cfg.fssCap →
      exec (.setenv ess fss) s = .next { s with
        env := ⟨true, ess, fss⟩, u := Vector.replicate 8 0, b := Vector.replicate 4 ⟨false, 0, 0⟩,
        g := Vector.replicate 4 ⟨false, ⟨⟨false, 0, 0⟩, false, false⟩, ⟨⟨false, 0, 0⟩, false, false⟩⟩,
        tag := ⟨0, 0, false, false, 0⟩, fexp := 0, ffrac := 0, uctl := ⟨0, 0, 0, false⟩,
        status := { s.status with
          t := false, clip := false, inex := false, lim := false, uni := false, nanf := false } }) ∧
    (s.cfg.essCap < ess.toNat ∨ s.cfg.fssCap < fss.toNat →
      exec (.setenv ess fss) s = .next { s with
        status := { s.status with fatal := true, busy := false }, errcode := 0xFF })) ∧
  (∀ s : State, exec .clrenv s = .next { s with
    env := ⟨false, 0, 0⟩, u := Vector.replicate 8 0, b := Vector.replicate 4 ⟨false, 0, 0⟩,
    g := Vector.replicate 4 ⟨false, ⟨⟨false, 0, 0⟩, false, false⟩, ⟨⟨false, 0, 0⟩, false, false⟩⟩,
    tag := ⟨0, 0, false, false, 0⟩, fexp := 0, ffrac := 0, uctl := ⟨0, 0, 0, false⟩,
    status := { s.status with
      t := false, clip := false, inex := false, lim := false, uni := false, nanf := false } }) ∧
  (∀ s : State, ∃ t, exec .clrenv s = .next t ∧
    exec (.movu 0 1) t = .next { t with
      status := { t.status with err := true, busy := false }, errcode := 0x02 }) ∧
  (∀ v, (Env.esmax ⟨v, 3, 4⟩, Env.fsmax ⟨v, 3, 4⟩, Env.utagsize ⟨v, 3, 4⟩, Env.maxubits ⟨v, 3, 4⟩)
    = (8, 16, 8, 33)) ∧
  ∀ v, (Env.esmax ⟨v, 0, 0⟩, Env.fsmax ⟨v, 0, 0⟩, Env.utagsize ⟨v, 0, 0⟩, Env.maxubits ⟨v, 0, 0⟩)
    = (1, 1, 1, 4)

/-- LDC loads the distinguished pattern of its id, field by field, and raises E_FIELD above 13 (R94 with the
table of 10_state.md R26, whose bits the spec marks as general knowledge, log 9). -/
def Obligations.LdcLoadsTheDistinguishedPattern : Prop :=
  ∀ (s : State) (rd : UReg) (id : Imm), s.env.v = true →
    let E := s.env
    let es := 2 ^ E.ess.toNat
    let fs := 2 ^ E.fss.toNat
    opOf (encode (.ldc rd id)) = 0x08 ∧
    (13 < id.toNat → exec (.ldc rd id) s = .next { s with
      status := { s.status with err := true, busy := false }, errcode := 0x03 }) ∧
    (id.toNat ≤ 13 → ∃ u, exec (.ldc rd id) s = .next { s with u := s.u.set rd u } ∧
      (id = 0 → u = 0 ∧ HasFields E u false 0 0 false 1 1) ∧
      (id = 1 → HasFields E u false (2 ^ es - 1) (2 ^ fs - 1) false es fs) ∧
      (id = 2 → HasFields E u true (2 ^ es - 1) (2 ^ fs - 1) false es fs) ∧
      (id = 3 → HasFields E u false (2 ^ es - 1) (2 ^ fs - 1) true es fs) ∧
      (id = 4 → HasFields E u true (2 ^ es - 1) (2 ^ fs - 1) true es fs) ∧
      (id = 5 → HasFields E u false (2 ^ es - 1) (2 ^ fs - 2) false es fs) ∧
      (id = 6 → HasFields E u true (2 ^ es - 1) (2 ^ fs - 2) false es fs) ∧
      (id = 7 → HasFields E u false 0 1 false es fs) ∧
      (id = 8 → HasFields E u false 1 0 false es fs) ∧
      (id = 9 → HasFields E u false 0 (2 ^ fs - 1) false es fs) ∧
      (id = 10 → HasFields E u false 0 0 true es fs) ∧
      (id = 11 → HasFields E u true 0 0 true es fs) ∧
      (id = 12 → HasFields E u false (2 ^ es - 1) (2 ^ fs - 2) true es fs) ∧
      (id = 13 → HasFields E u true (2 ^ es - 1) (2 ^ fs - 2) true es fs))

/-- MOVU, MOVB and MOVG copy a whole register, MOVG bit for bit; a MOVU to itself is a no-op (R95 to R97). -/
def Obligations.MovesCopyWholeRegisters : Prop :=
  ∀ s : State, s.env.v = true → s.allCanonical →
    (∀ rd ra : UReg, opOf (encode (.movu rd ra)) = 0x09 ∧
      exec (.movu rd ra) s = .next { s with u := s.u.set rd (s.readU ra) }) ∧
    (∀ rd : UReg, exec (.movu rd rd) s = .next s) ∧
    (∀ rd ra : BReg, opOf (encode (.movb rd ra)) = 0x0A ∧
      exec (.movb rd ra) s = .next { s with b := s.b.set rd (s.readB ra) }) ∧
    ∀ rd ra : GReg, opOf (encode (.movg rd ra)) = 0x0B ∧
      exec (.movg rd ra) s = .next { s with g := s.g.set rd (s.readG ra) }

/-- MKB builds a bound from unums, GETL and GETR take its left and right unum (R98 to R100). -/
def Obligations.BoundFieldCommands : Prop :=
  encode (.mkb 0 1 2 true) = 0x0C012001#32 ∧
  (∀ (rd : BReg) (ra rb : UReg), rb ≠ 0 →
    ∃ x, decode (joinFields 0x0C rd ra rb 0) = .error x) ∧
  ∀ s : State, s.env.v = true → s.allCanonical →
    (∀ (rd : BReg) (ra rb : UReg), opOf (encode (.mkb rd ra rb true)) = 0x0C ∧
      exec (.mkb rd ra rb true) s =
        .next { s with b := s.b.set rd { p := true, l := s.readU ra, r := s.readU rb } }) ∧
    (∀ (rd : BReg) (ra : UReg), opOf (encode (.mkb rd ra 0 false)) = 0x0C ∧
      exec (.mkb rd ra 0 false) s =
        .next { s with b := s.b.set rd { p := false, l := s.readU ra, r := 0 } }) ∧
    (∀ (rd : UReg) (ra : BReg), opOf (encode (.getl rd ra)) = 0x0D ∧
      exec (.getl rd ra) s = .next { s with u := s.u.set rd (s.readB ra).l }) ∧
    ∀ (rd : UReg) (ra : BReg), opOf (encode (.getr rd ra)) = 0x0E ∧
      ((s.readB ra).p = true → exec (.getr rd ra) s = .next { s with u := s.u.set rd (s.readB ra).r }) ∧
      ((s.readB ra).p = false → exec (.getr rd ra) s = .next { s with u := s.u.set rd (s.readB ra).l })

/-! ### The operand buffer (20_memory.md) -/

/-- LDU reads the tag bytes, then as many bytes as the tag says, little-endian, drops the pad bits and writes
the unum; a load that would pass the buffer's end raises E_RANGE and writes nothing (R101, 20_memory.md R55). -/
def Obligations.LoadUnum : Prop :=
  ∀ (s : State) (rd : UReg) (addr : Imm), s.env.v = true →
    let E := s.env
    let a := addr.toNat
    let utagsize := 1 + E.ess.toNat + E.fss.toNat
    let tb := (utagsize + 7) / 8
    let t := leNat (s.buf.readBytes a tb)
    let fs := t % 2 ^ E.fss.toNat + 1
    let es := t / 2 ^ E.fss.toNat % 2 ^ E.ess.toNat + 1
    let nb := utagsize + fs + es + 1
    let n := (nb + 7) / 8
    opOf (encode (.ldu rd addr)) = 0x10 ∧
    (a + tb ≤ s.cfg.bufsz → a + n ≤ s.cfg.bufsz →
      exec (.ldu rd addr) s =
        .next { s with u := s.u.set rd (leNat (s.buf.readBytes a n) % 2 ^ nb) }) ∧
    (s.cfg.bufsz < a + tb ∨ s.cfg.bufsz < a + n →
      exec (.ldu rd addr) s = .next { s with
        status := { s.status with err := true, busy := false }, errcode := 0x05 })

/-- STU writes exactly the `nbytes(u)` bytes of the unum, little-endian from its address, and no others; a
store that would pass the buffer's end raises E_RANGE and writes nothing (R102). -/
def Obligations.StoreUnum : Prop :=
  ∀ (s : State) (ra : UReg) (addr : Imm), s.env.v = true → s.allCanonical → Memory.wf s.buf →
    let u := s.readU ra
    let a := addr.toNat
    let n := (numbits s.env u + 7) / 8
    opOf (encode (.stu ra addr)) = 0x11 ∧
    (a + n ≤ s.cfg.bufsz → ∃ m, exec (.stu ra addr) s = .next { s with buf := m } ∧ Memory.wf m ∧
      (∀ k, k < n → (m.read (a + k)).toNat = u / 2 ^ (8 * k) % 2 ^ 8) ∧
      ∀ c, c < a ∨ a + n ≤ c → m.read c = s.buf.read c) ∧
    (s.cfg.bufsz < a + n → exec (.stu ra addr) s = .next { s with
      status := { s.status with err := true, busy := false }, errcode := 0x05 })

/-- LDB tests the flag byte's address, its value, then each unum in turn, and writes nothing when one fails
(R103, 60_exceptions.md R247). -/
def Obligations.LoadBound : Prop :=
  ∀ (s : State) (rd : BReg) (addr : Imm), s.env.v = true →
    let a := addr.toNat
    let f := (s.buf.read a).toNat
    let raises := fun c : BitVec 8 => exec (.ldb rd addr) s = .next { s with
      status := { s.status with err := true, busy := false }, errcode := c }
    opOf (encode (.ldb rd addr)) = 0x12 ∧
    (s.cfg.bufsz ≤ a → raises 0x05) ∧
    (a < s.cfg.bufsz → 1 < f → raises 0x03) ∧
    (a < s.cfg.bufsz → f ≤ 1 → ∀ x, s.unpackU (a + 1) = .error x → raises 0x05) ∧
    (a < s.cfg.bufsz → f = 0 → ∀ l, s.unpackU (a + 1) = .ok l →
      exec (.ldb rd addr) s =
        .next { s with b := s.b.set rd { p := false, l := l.unum, r := 0 } }) ∧
    (a < s.cfg.bufsz → f = 1 → ∀ l, s.unpackU (a + 1) = .ok l →
      (∀ x, s.unpackU (a + 1 + l.len) = .error x → raises 0x05) ∧
      ∀ r, s.unpackU (a + 1 + l.len) = .ok r →
        exec (.ldb rd addr) s =
          .next { s with b := s.b.set rd { p := true, l := l.unum, r := r.unum } })

/-- STB writes the flag byte and then the packed unums, `R` only for a pair, and no other byte; past the
buffer's end it raises E_RANGE and writes nothing (R104, 20_memory.md R57). -/
def Obligations.StoreBound : Prop :=
  ∀ (s : State) (ra : BReg) (addr : Imm), s.env.v = true → s.allCanonical → Memory.wf s.buf →
    let b := s.readB ra
    let a := addr.toNat
    let nl := (numbits s.env b.l + 7) / 8
    let nr := if b.p then (numbits s.env b.r + 7) / 8 else 0
    opOf (encode (.stb ra addr)) = 0x13 ∧
    (a + 1 + nl + nr ≤ s.cfg.bufsz → ∃ m, exec (.stb ra addr) s = .next { s with buf := m } ∧
      Memory.wf m ∧ (m.read a).toNat = b.p.toNat ∧
      (∀ k, k < nl → (m.read (a + 1 + k)).toNat = b.l / 2 ^ (8 * k) % 2 ^ 8) ∧
      (∀ k, k < nr → (m.read (a + 1 + nl + k)).toNat = b.r / 2 ^ (8 * k) % 2 ^ 8) ∧
      ∀ c, c < a ∨ a + 1 + nl + nr ≤ c → m.read c = s.buf.read c) ∧
    (s.cfg.bufsz < a + 1 + nl + nr → exec (.stb ra addr) s = .next { s with
      status := { s.status with err := true, busy := false }, errcode := 0x05 })

/-- STU then LDU, and STB then LDB, at one address give back the operand (R105). -/
def Obligations.StoreThenLoadReturnsTheOperand : Prop :=
  ∀ s : State, s.env.v = true → s.allCanonical → Memory.wf s.buf →
    (∀ (rd ra : UReg) (addr : Imm), addr.toNat + nbytes s.env (s.readU ra) ≤ s.cfg.bufsz →
      ∃ t, exec (.stu ra addr) s = .next t ∧
        exec (.ldu rd addr) t = .next { t with u := s.u.set rd (s.readU ra) }) ∧
    ∀ (rd ra : BReg) (addr : Imm), addr.toNat + (packB s.env (s.readB ra)).length ≤ s.cfg.bufsz →
      ((s.readB ra).p = false → (s.readB ra).r = 0) →
      ∃ t, exec (.stb ra addr) s = .next t ∧
        exec (.ldb rd addr) t = .next { t with b := s.b.set rd (s.readB ra) }

/-! ### The bit-tag commands (41_tag.md) -/

/-- DTAG writes the tag, the sign, `numbits` and the two payload fields of its operand (R128). -/
def Obligations.DtagDecodesTheOperand : Prop :=
  Tag.word { fs := 1, es := 2, ub := false, sg := false, nb := 12 } = 0x00C02001 ∧
  ∀ (s : State) (ra : UReg), s.env.v = true → s.cfg.wf → s.envWithinCaps →
    let u := s.readU ra
    opOf (encode (.dtag ra)) = 0x20 ∧
    ∃ g : Tag, exec (.dtag ra) s =
        .next { s with tag := g, fexp := expoOf s.env u, ffrac := fracOf s.env u } ∧
      g.fs.toNat = fsOf s.env u ∧ g.es.toNat = esOf s.env u ∧ g.ub = ubitOf s.env u ∧
      g.sg = signOf s.env u ∧ g.nb.toNat = numbits s.env u

/-- ETAG assembles the unum of TAG, FEXP and FFRAC and writes TAG.NB, or raises E_FIELD; DTAG then ETAG
reproduces the unum (R129). -/
def Obligations.EtagAssemblesAndUndoesDtag : Prop :=
  ∀ s : State, s.env.v = true → s.cfg.wf → s.envWithinCaps →
    let legal := 1 ≤ s.tag.fs.toNat ∧ s.tag.fs.toNat ≤ 2 ^ s.env.fss.toNat ∧ 1 ≤ s.tag.es.toNat ∧
      s.tag.es.toNat ≤ 2 ^ s.env.ess.toNat ∧ s.fexp < 2 ^ s.tag.es.toNat ∧ s.ffrac < 2 ^ s.tag.fs.toNat
    (∀ rd : UReg, opOf (encode (.etag rd)) = 0x21 ∧
      (legal → ∃ u nb, exec (.etag rd) s =
          .next { s with u := s.u.set rd u, tag := { s.tag with nb := nb } } ∧
        HasFields s.env u s.tag.sg s.fexp s.ffrac s.tag.ub s.tag.es.toNat s.tag.fs.toNat ∧
        nb.toNat = 1 + s.env.ess.toNat + s.env.fss.toNat + s.tag.fs.toNat + s.tag.es.toNat + 1) ∧
      (¬ legal → exec (.etag rd) s = .next { s with
        status := { s.status with err := true, busy := false }, errcode := 0x03 })) ∧
    (s.allCanonical → ∀ rd ra : UReg, ∃ t, exec (.dtag ra) s = .next t ∧
      exec (.etag rd) t = .next { t with u := s.u.set rd (s.readU ra) })

/-- PROMF appends a zero fraction bit to an exact unum and keeps its value, does nothing but set LIM at the
maximum fraction size, and raises E_OPERAND on an inexact unum (R130). -/
def Obligations.PromfWidensTheFraction : Prop :=
  ∀ (s : State) (rd ra : UReg), s.env.v = true → s.allCanonical →
    let E := s.env
    let u := s.readU ra
    opOf (encode (.promf rd ra)) = 0x22 ∧
    (ubitOf E u = true → exec (.promf rd ra) s = .next { s with
      status := { s.status with err := true, busy := false }, errcode := 0x04 }) ∧
    (ubitOf E u = false → fsOf E u = 2 ^ E.fss.toNat → exec (.promf rd ra) s = .next { s with
      u := s.u.set rd u, status := { s.status with lim := true } }) ∧
    (ubitOf E u = false → fsOf E u ≠ 2 ^ E.fss.toNat → ∃ x, exec (.promf rd ra) s = .next { s with
        u := s.u.set rd x, status := { s.status with lim := false } } ∧
      HasFields E x (signOf E u) (expoOf E u) (2 * fracOf E u) false (esOf E u) (fsOf E u + 1) ∧
      u2r E x = u2r E u)

/-- PROME widens the exponent field of an exact unum arm by arm: a normal stays normal, zero stays zero, a
subnormal becomes normal where it can (R131). -/
def Obligations.PromeWidensTheExponent : Prop :=
  ∀ (s : State) (rd ra : UReg), s.env.v = true → s.allCanonical →
    let E := s.env
    let u := s.readU ra
    let e := expoOf E u
    let f := fracOf E u
    let fs := fsOf E u
    let D := 2 ^ (esOf E u - 1)
    let k := Nat.log2 f
    opOf (encode (.prome rd ra)) = 0x23 ∧
    (ubitOf E u = true → exec (.prome rd ra) s = .next { s with
      status := { s.status with err := true, busy := false }, errcode := 0x04 }) ∧
    (ubitOf E u = false → esOf E u = 2 ^ E.ess.toNat → exec (.prome rd ra) s = .next { s with
      u := s.u.set rd u, status := { s.status with lim := true } }) ∧
    (ubitOf E u = false → esOf E u ≠ 2 ^ E.ess.toNat → ∃ x, exec (.prome rd ra) s = .next { s with
        u := s.u.set rd x, status := { s.status with lim := false } } ∧
      (e ≠ 0 → HasFields E x (signOf E u) (e + D) f false (esOf E u + 1) fs) ∧
      (e = 0 → f = 0 → HasFields E x (signOf E u) 0 0 false (esOf E u + 1) fs) ∧
      (e = 0 → f ≠ 0 → fs ≤ k + D →
        HasFields E x (signOf E u) (1 + k + D - fs) ((f - 2 ^ k) * 2 ^ (fs - k)) false (esOf E u + 1) fs) ∧
      (e = 0 → f ≠ 0 → k + D < fs →
        HasFields E x (signOf E u) 0 (f * 2 ^ D) false (esOf E u + 1) fs))

/-- DEMF drops the last fraction bit, keeps the ubit or sets it when the bit was 1, and says so in INEX; at
fraction size 1 and on an infinity or NaN it does nothing but set LIM (R132). -/
def Obligations.DemfNarrowsTheFraction : Prop :=
  ∀ (s : State) (rd ra : UReg), s.env.v = true → s.allCanonical →
    let E := s.env
    let u := s.readU ra
    opOf (encode (.demf rd ra)) = 0x24 ∧
    (fsOf E u = 1 ∨ isSpecial E u = true → exec (.demf rd ra) s = .next { s with
      u := s.u.set rd u, status := { s.status with lim := true, inex := false } }) ∧
    (fsOf E u ≠ 1 → isSpecial E u = false → ∃ x, exec (.demf rd ra) s = .next { s with
        u := s.u.set rd x, status := { s.status with lim := false, inex := (fracOf E u).testBit 0 } } ∧
      HasFields E x (signOf E u) (expoOf E u) (fracOf E u / 2) (ubitOf E u || (fracOf E u).testBit 0)
        (esOf E u) (fsOf E u - 1))

/-- DEME narrows the exponent field in four arms: subnormal, becoming subnormal, normal, saturating (R133). -/
def Obligations.DemeNarrowsTheExponent : Prop :=
  ∀ (s : State) (rd ra : UReg), s.env.v = true → s.allCanonical →
    let E := s.env
    let u := s.readU ra
    let e := expoOf E u
    let f := fracOf E u
    let fs := fsOf E u
    let Q := 2 ^ (esOf E u - 2)
    let F := 2 ^ fs + f
    opOf (encode (.deme rd ra)) = 0x25 ∧
    (esOf E u = 1 ∨ isSpecial E u = true → exec (.deme rd ra) s = .next { s with
      u := s.u.set rd u, status := { s.status with lim := true, inex := false } }) ∧
    (esOf E u ≠ 1 → isSpecial E u = false →
      let gives := fun (e' f' : Nat) (lost : Bool) => ∃ x, exec (.deme rd ra) s = .next { s with
          u := s.u.set rd x, status := { s.status with lim := false, inex := lost } } ∧
        HasFields E x (signOf E u) e' f' (ubitOf E u || lost) (esOf E u - 1) fs
      (e = 0 → gives 0 (f / 2 ^ Q) (decide (f % 2 ^ Q ≠ 0))) ∧
      (1 ≤ e → e ≤ Q → gives 0 (F / 2 ^ (Q - e + 1)) (decide (F % 2 ^ (Q - e + 1) ≠ 0))) ∧
      (Q < e → e < 3 * Q → gives (e - Q) f false) ∧
      (3 * Q ≤ e → gives (2 ^ (esOf E u - 1) - 1) (2 ^ fs - 1) true))

/-- PROMP promotes the narrower of two exact unums, exponents first, until both have one tag; both keep value
and sign, and LIM says that neither changed (R134). -/
def Obligations.PrompBringsBothToOneTag : Prop :=
  (∀ (E : Env) (u v : Unum), Canonical E u → Canonical E v → ubitOf E u = false → ubitOf E v = false →
    (esOf E u < esOf E v → ppair E u v = ppair E (prome E u) v) ∧
    (esOf E v < esOf E u → ppair E u v = ppair E u (prome E v)) ∧
    (esOf E u = esOf E v → fsOf E u < fsOf E v → ppair E u v = ppair E (promf E u) v) ∧
    (esOf E u = esOf E v → fsOf E v < fsOf E u → ppair E u v = ppair E u (promf E v)) ∧
    (esOf E u = esOf E v → fsOf E u = fsOf E v → ppair E u v = (u, v))) ∧
  ∀ (s : State) (rd ra : UReg), s.env.v = true → s.allCanonical →
    let E := s.env
    let u := s.readU rd
    let v := s.readU ra
    opOf (encode (.promp rd ra)) = 0x26 ∧
    (ubitOf E u = true ∨ ubitOf E v = true → exec (.promp rd ra) s = .next { s with
      status := { s.status with err := true, busy := false }, errcode := 0x04 }) ∧
    (ubitOf E u = false → ubitOf E v = false →
      let x := (ppair E u v).1
      let y := (ppair E u v).2
      exec (.promp rd ra) s = .next { s with
        u := (s.u.set rd x).set ra y, status := { s.status with lim := decide (x = u ∧ y = v) } } ∧
      (rd = ra → x = y) ∧ Canonical E x ∧ Canonical E y ∧ ubitOf E x = false ∧ ubitOf E y = false ∧
      esOf E x = max (esOf E u) (esOf E v) ∧ esOf E y = esOf E x ∧
      fsOf E x = max (fsOf E u) (fsOf E v) ∧ fsOf E y = fsOf E x ∧
      signOf E x = signOf E u ∧ signOf E y = signOf E v ∧
      u2r E x = u2r E u ∧ u2r E y = u2r E v)

/-- Promotion of an exact unum keeps its value and is undone by demotion (R135 (a), (c)). -/
def Obligations.PromotionKeepsTheValueAndIsUndone : Prop :=
  ∀ (E : Env) (u : Unum), Canonical E u → ubitOf E u = false →
    u2r E (promf E u) = u2r E u ∧ ubitOf E (promf E u) = false ∧
    u2r E (prome E u) = u2r E u ∧ ubitOf E (prome E u) = false ∧
    (esOf E u < 2 ^ E.ess.toNat → deme E (prome E u) = u) ∧
    (fsOf E u < 2 ^ E.fss.toNat → demf E (promf E u) = u)

/-- The interval of a demoted unum holds every element of the operand's interval, for every unum that is no
infinity and no NaN (R135 (b)). -/
def Obligations.DemotionEnclosesTheOperand : Prop :=
  ∀ (E : Env) (u : Unum), Canonical E u → isSpecial E u = false →
    (encloses (u2g E (demf E u)) (u2g E u) = true ∧ encloses (u2g E (deme E u)) (u2g E u) = true) ∧
    ∀ x : ExtNum, (u2g E u).Holds x → (u2g E (demf E u)).Holds x ∧ (u2g E (deme E u)).Holds x

/-! ### Unpacking and packing (42_pack.md) -/

/-- The value of a unum: hidden bit and bias for a normal, none and effective exponent `1 - bias` for a
subnormal; the all-ones payload of the maximum tag is an infinity by sign (R151). -/
def Obligations.UnumValue : Prop :=
  ∀ (E : Env) (u : Unum),
    let es := esOf E u
    let fs := fsOf E u
    let e := expoOf E u
    let f := fracOf E u
    let b : Int := 2 ^ (es - 1) - 1
    let special := es = 2 ^ E.ess.toNat ∧ fs = 2 ^ E.fss.toNat ∧ e = 2 ^ es - 1 ∧ f = 2 ^ fs - 1
    (special → (u2r E u).opn = false ∧ (u2r E u).inf = true ∧
      (u2r E u).toNum = if signOf E u then (⊥ : ExtNum) else ((⊤ : WithTop ℚ) : ExtNum)) ∧
    (¬ special → (u2r E u).opn = false ∧ (u2r E u).inf = false ∧
      (u2r E u).val.toRat = (if signOf E u then (-1 : ℚ) else 1) *
        (if e = 0 then (f : ℚ) * 2 ^ (1 - b - fs) else ((2 ^ fs + f : Nat) : ℚ) * 2 ^ ((e : Int) - b - fs)))

/-- The interval of a unum: NaN, a closed point, or the open interval to the next magnitude away from zero,
which is +∞ (or −∞) from the widest payload of the tag (R152). -/
def Obligations.UnumInterval : Prop :=
  ∀ (E : Env) (u : Unum),
    let es := esOf E u
    let fs := fsOf E u
    let e := expoOf E u
    let f := fracOf E u
    let b : Int := 2 ^ (es - 1) - 1
    let maxTag := es = 2 ^ E.ess.toNat ∧ fs = 2 ^ E.fss.toNat
    let special := maxTag ∧ e = 2 ^ es - 1 ∧ f = 2 ^ fs - 1
    let widest := e = 2 ^ es - 1 ∧ f = if maxTag then 2 ^ fs - 2 else 2 ^ fs - 1
    let m : ℚ :=
      if e = 0 then (f : ℚ) * 2 ^ (1 - b - fs) else ((2 ^ fs + f : Nat) : ℚ) * 2 ^ ((e : Int) - b - fs)
    let m2 : ℚ := m + 2 ^ ((max e 1 : Int) - b - fs)
    let top : ExtNum := ((⊤ : WithTop ℚ) : ExtNum)
    let num := fun x : ℚ => ((x : WithTop ℚ) : ExtNum)
    let g := u2g E u
    (special → ubitOf E u = true → g = nanG) ∧
    (special → ubitOf E u = false → g = point (u2r E u)) ∧
    (¬ special → ubitOf E u = false → g = point (u2r E u)) ∧
    (¬ special → ubitOf E u = true → g.nan = false ∧ g.l.opn = true ∧ g.r.opn = true ∧
      (signOf E u = false → g.l.toNum = num m ∧ g.r.toNum = if widest then top else num m2) ∧
      (signOf E u = true → g.r.toNum = num (-m) ∧ g.l.toNum = if widest then ⊥ else num (-m2)))

/-- U2G writes the interval of a unum; B2G that of a singleton's unum, or of a pair end by end, NaN when
either unum is; NANF says whether the result is NaN (R153 to R155). -/
def Obligations.UnpackCommands : Prop :=
  ∀ s : State, s.Inv → s.env.v = true →
    (∀ (rd : GReg) (ra : UReg), opOf (encode (.u2g rd ra)) = 0x30 ∧
      exec (.u2g rd ra) s = .next { s with
        g := s.g.set rd (u2g s.env (s.readU ra)),
        status := { s.status with nanf := isNan s.env (s.readU ra) } }) ∧
    ∀ (rd : GReg) (ra : BReg), opOf (encode (.b2g rd ra)) = 0x31 ∧
      let b := s.readB ra
      let gl := u2g s.env b.l
      let gr := u2g s.env b.r
      let gives := fun g : Gbnd => exec (.b2g rd ra) s = .next { s with
        g := s.g.set rd g, status := { s.status with nanf := g.nan } }
      (b.p = false → gives gl) ∧
      (b.p = true → gl.nan = true ∨ gr.nan = true →
        gives { nan := true, l := ⟨⟨false, 0, 0⟩, true, false⟩, r := ⟨⟨false, 0, 0⟩, true, false⟩ }) ∧
      (b.p = true → gl.nan = false → gr.nan = false → gives { nan := false, l := gl.l, r := gr.r })

/-- `r2u` case by case in R161's order: zero, beyond maxreal, below the smallest subnormal, subnormal, a power
of two as a one-bit subnormal, the shortest exact normal, and the sliver below the value rounded up. -/
def Obligations.RealEncodingByCases : Prop :=
  ∀ (E : Env) (x : Dyad),
    let em : Nat := 2 ^ E.ess.toNat
    let fm : Nat := 2 ^ E.fss.toNat
    let S : Int := 2 ^ (em - 1)
    let maxR : ℚ := 2 ^ S * (2 - 2 ^ (1 - (fm : Int)))
    let minSub : ℚ := 2 ^ (2 - S - (fm : Int))
    let minNorm : ℚ := 2 ^ (2 - S)
    let a : ℚ := |x.toRat|
    let sg := decide (x.toRat < 0)
    let u := r2u E x
    let n := ⌊a / minSub⌋₊
    (a = 0 → u = 0) ∧
    (maxR < a → HasFields E u sg (2 ^ em - 1) (2 ^ fm - 2) true em fm) ∧
    (0 < a → a < minSub → HasFields E u sg 0 0 true em fm) ∧
    (minSub ≤ a → a < minNorm → (n : ℚ) * minSub = a → ∃ f k, n = f * 2 ^ k ∧ k < fm ∧
      (f % 2 = 1 ∨ k + 1 = fm) ∧ HasFields E u sg 0 f false em (fm - k)) ∧
    (minSub ≤ a → a < minNorm → (n : ℚ) * minSub ≠ a → HasFields E u sg 0 n true em fm) ∧
    (minNorm ≤ a → a ≤ maxR → ∀ sc : Int, (2 : ℚ) ^ sc ≤ a → a < 2 ^ (sc + 1) →
      let y : ℚ := a / 2 ^ sc
      let least := fun (es : Nat) (c : Int) => 1 ≤ es ∧ 2 - 2 ^ (es - 1) ≤ c ∧ c ≤ 2 ^ (es - 1) ∧
        ∀ es', 1 ≤ es' → es' < es → ¬ ((2 : Int) - 2 ^ (es' - 1) ≤ c ∧ c ≤ 2 ^ (es' - 1))
      let expo := fun (es : Nat) (c : Int) => (c + (2 ^ (es - 1) - 1)).toNat
      (∀ k, y = 1 → k ≤ em - 1 → 1 - sc = 2 ^ k → HasFields E u sg 0 1 false (k + 1) 1) ∧
      ((y ≠ 1 ∨ ∀ k : Nat, k ≤ em - 1 → 1 - sc ≠ 2 ^ k) →
        (∀ m c : Nat, m ≤ fm → y * 2 ^ m = c → (∀ m' c' : Nat, m' < m → y * 2 ^ m' ≠ c') →
          ∀ es, least es sc →
            HasFields E u sg (expo es sc) ((c - 2 ^ m) * 2 ^ (max m 1 - m)) false es (max m 1)) ∧
        ((∀ m c : Nat, m ≤ fm → y * 2 ^ m ≠ c) →
          let c := ⌈y * 2 ^ fm⌉₊
          let sc' := if c = 2 ^ (fm + 1) then sc + 1 else sc
          let c' := if c = 2 ^ (fm + 1) then 2 ^ fm else c
          ∀ es, least es sc' → ∃ v, HasFields E v false (expo es sc') (c' - 2 ^ fm) false es fm ∧
            let w := v - 2 ^ E.utagsize + 2 ^ (E.utagsize - 1)
            u = if sg then w + 2 ^ (numbits E w - 1) else w)))

/-- `r2u` is sound: an exact result has the value, an inexact one is a sliver with the value strictly inside;
a value some unum has is encoded exactly; negation flips the sign bit (R162). -/
def Obligations.RealEncodingIsSound : Prop :=
  ∀ E : Env,
    (∀ x : Dyad,
      let u := r2u E x
      Canonical E u ∧ isSpecial E u = false ∧
      (ubitOf E u = false → (u2r E u).val.toRat = x.toRat) ∧
      (ubitOf E u = true → (u2g E u).Holds ((x.toRat : WithTop ℚ) : ExtNum)) ∧
      (x.sg = false → x.man ≠ 0 → r2u E x.neg = u + 2 ^ (numbits E u - 1))) ∧
    ∀ (u : Unum) (x : Dyad), isSpecial E u = false → x.toRat = (u2r E u).val.toRat →
      ubitOf E (r2u E x) = false ∧ u2r E (r2u E x) = u2r E u

/-- ENCL writes the encoding of the left end with INEX and NANF, ENCR that of the right end; a NaN operand
gives QNAN with INEX 0 and NANF 1 (R156, R157). The encoders arm by arm (R164): the named pattern of an
infinite end; `r2u` of the value where it is inexact or the end closed; for an open end the unum one `ubitmask`
above or below it, and the sliver (−1, 0) for an open right end 0. -/
def Obligations.EndpointEncodeCommands : Prop :=
  (∀ (s : State) (rd : UReg) (ra : GReg), s.env.v = true →
    let E := s.env
    let g := s.readG ra
    opOf (encode (.encl rd ra)) = 0x32 ∧ opOf (encode (.encr rd ra)) = 0x33 ∧
    (g.nan = true →
      exec (.encl rd ra) s = .next { s with
        u := s.u.set rd (qnan E), status := { s.status with inex := false, nanf := true } } ∧
      exec (.encr rd ra) s = .next { s with
        u := s.u.set rd (qnan E), status := { s.status with inex := false, nanf := true } }) ∧
    (g.nan = false →
      exec (.encl rd ra) s = .next { s with
        u := s.u.set rd (encl E g.l).1,
        status := { s.status with inex := (encl E g.l).2, nanf := isNan E (encl E g.l).1 } } ∧
      exec (.encr rd ra) s = .next { s with
        u := s.u.set rd (encr E g.r).1,
        status := { s.status with inex := (encr E g.r).2, nanf := isNan E (encr E g.r).1 } })) ∧
  ∀ (E : Env) (p : Gnum),
    let x := p.val.toRat
    let u := r2u E p.val
    let half := 2 ^ (E.ess.toNat + E.fss.toNat)
    (p.inf = true → x < 0 →
      encl E p = (if p.opn then openInfPattern E true else infPattern E true, false) ∧
      encr E p = (if p.opn then qnan E else infPattern E true, false)) ∧
    (p.inf = true → 0 ≤ x →
      encl E p = (if p.opn then qnan E else infPattern E false, false) ∧
      encr E p = (if p.opn then openInfPattern E false else infPattern E false, false)) ∧
    (p.inf = false → ubitOf E u = true → encl E p = (u, true) ∧ encr E p = (u, true)) ∧
    (p.inf = false → ubitOf E u = false → p.opn = false → encl E p = (u, false) ∧ encr E p = (u, false)) ∧
    (p.inf = false → ubitOf E u = false → p.opn = true →
      (0 ≤ x → encl E p = (u + half, false)) ∧ (x < 0 → encl E p = (u - half, false)) ∧
      (0 < x → encr E p = (u - half, false)) ∧ (x < 0 → encr E p = (u + half, false)) ∧
      (x = 0 → (encr E p).2 = false ∧ HasFields E (encr E p).1 true 0 0 true 1 1))

/-- The chosen end of the encoded unum is the endpoint itself, value and openness, when the value is
representable, and strictly outside it when it is not, and the second result says which. An open +∞ left end
and an open −∞ right end, beyond which nothing lies, encode to QNAN (R164). -/
def Obligations.EncodedEndpointIsAtOrOutside : Prop :=
  ∀ (E : Env) (p : Gnum),
    (p.inf = true → p.opn = true → p.val.isNeg = false →
      isNan E (encl E p).1 = true ∧ Canonical E (encl E p).1) ∧
    (p.inf = true → p.opn = true → p.val.isNeg = true →
      isNan E (encr E p).1 = true ∧ Canonical E (encr E p).1) ∧
    (¬ (p.inf = true ∧ p.opn = true ∧ p.val.isNeg = false) →
      Canonical E (encl E p).1 ∧ isNan E (encl E p).1 = false ∧
      (Representable E p → (encl E p).2 = false ∧ cmpE (u2g E (encl E p).1).l .left p .left = .eq) ∧
      (¬ Representable E p → (encl E p).2 = true ∧ cmpE (u2g E (encl E p).1).l .left p .left = .lt)) ∧
    (¬ (p.inf = true ∧ p.opn = true ∧ p.val.isNeg = true) →
      Canonical E (encr E p).1 ∧ isNan E (encr E p).1 = false ∧
      (Representable E p → (encr E p).2 = false ∧ cmpE (u2g E (encr E p).1).r .right p .right = .eq) ∧
      (¬ Representable E p → (encr E p).2 = true ∧ cmpE (u2g E (encr E p).1).r .right p .right = .gt))

/-- PACK step by step: QNAN for a NaN or ill-formed interval, the singleton of two equal encodings with one
openness, else the unified singleton if it is exactly the interval, else the pair. UCTL is written only when
the controller ran (R158, R168, 44_unify.md R225). -/
def Obligations.PackCommand : Prop :=
  ∀ (s : State) (rd : BReg) (ra : GReg), s.env.v = true →
    let E := s.env
    let g := s.readG ra
    let ul := (encl E g.l).1
    let ur := (encr E g.r).1
    let c := unify E { p := true, l := ul, r := ur }
    let kept := c.bound.p = false ∧ identical (b2g E c.bound) g = true
    let ran : Uctl :=
      ⟨BitVec.ofNat 4 c.exit.code, BitVec.ofNat 5 c.eiter, BitVec.ofNat 12 c.fiter, c.neg⟩
    let gives := fun (b : Ubound) (x : Uctl) => exec (.pack rd ra) s = .next { s with
      b := s.b.set rd b, uctl := x,
      status := { s.status with uni := !b.p, nanf := !b.p && isNan E b.l } }
    opOf (encode (.pack rd ra)) = 0x34 ∧
    (g.Proper → isNan E ul = false ∧ isNan E ur = false) ∧
    (g.nan = true ∨ illformed g = true → gives { p := false, l := qnan E, r := 0 } s.uctl) ∧
    (g.Proper → ul = ur → g.l.opn = g.r.opn → gives { p := false, l := ul, r := 0 } s.uctl) ∧
    (g.Proper → ¬ (ul = ur ∧ g.l.opn = g.r.opn) → kept → gives c.bound ran) ∧
    (g.Proper → ¬ (ul = ur ∧ g.l.opn = g.r.opn) → ¬ kept → gives { p := true, l := ul, r := ur } ran)

/-- The bound PACK gives holds every element of a well-formed interval, and is the interval when both its end
values are representable; a NaN or ill-formed interval gives the QNAN singleton (R169). The bits of QNAN are
what the spec marks as general knowledge (log 9). -/
def Obligations.PackEnclosesTheInterval : Prop :=
  ∀ (E : Env) (g : Gbnd),
    (g.Proper → (b2g E (pack E g).bound).nan = false ∧ encloses (b2g E (pack E g).bound) g = true ∧
      CanonicalBound E (pack E g).bound ∧
      (∀ x : ExtNum, g.Holds x → (b2g E (pack E g).bound).Holds x) ∧
      (Representable E g.l → Representable E g.r → identical (b2g E (pack E g).bound) g = true)) ∧
    (¬ g.Proper → (pack E g).bound = { p := false, l := qnan E, r := 0 } ∧
      HasFields E (qnan E) false (2 ^ 2 ^ E.ess.toNat - 1) (2 ^ 2 ^ E.fss.toNat - 1) true
        (2 ^ E.ess.toNat) (2 ^ E.fss.toNat))

/-! ### Comparator and selector (43_compare_select.md) -/

/-- The five predicates write T and nothing else, by the formulas of R186 to R190. -/
def Obligations.PredicateCommands : Prop :=
  ∀ (s : State) (ra rb : GReg), s.env.v = true →
    let a := s.readG ra
    let b := s.readG rb
    let ok := !a.nan && !b.nan
    let lt := decide (cmpE a.r .right b.l .left = .lt)
    let gt := decide (cmpE a.l .left b.r .right = .gt)
    let setsT := fun (i : Instr) (x : Bool) =>
      exec i s = .next { s with status := { s.status with t := x } }
    (opOf (encode (.clt ra rb)) = 0x40 ∧ setsT (.clt ra rb) (ok && lt)) ∧
    (opOf (encode (.cgt ra rb)) = 0x41 ∧ setsT (.cgt ra rb) (ok && gt)) ∧
    (opOf (encode (.cneq ra rb)) = 0x42 ∧ setsT (.cneq ra rb) (ok && (lt || gt))) ∧
    (opOf (encode (.cseq ra rb)) = 0x43 ∧ setsT (.cseq ra rb) (ok && !(lt || gt))) ∧
    (opOf (encode (.cidn ra rb)) = 0x44 ∧ setsT (.cidn ra rb) (ok &&
      decide (cmpV a.l b.l = .eq ∧ a.l.opn = b.l.opn ∧ cmpV a.r b.r = .eq ∧ a.r.opn = b.r.opn)))

/-- `cmpV` is the order of the extended reals, a tie is broken by the order position of R182, the result is a
total preorder, and two ends of one side tie exactly when they bound the same set (R181 to R183). -/
def Obligations.EndpointOrder : Prop :=
  (∀ p q : Gnum, (cmpV p q = .lt ↔ p.toNum < q.toNum) ∧ (cmpV p q = .eq ↔ p.toNum = q.toNum) ∧
    (cmpV p q = .gt ↔ q.toNum < p.toNum)) ∧
  (∀ p : Gnum, p.toNum = if p.inf then
      (if p.val.toRat < 0 then (⊥ : ExtNum) else ((⊤ : WithTop ℚ) : ExtNum))
    else ((p.val.toRat : WithTop ℚ) : ExtNum)) ∧
  (∀ (p q : Gnum) (sp sq : Side),
    let pos := fun (sd : Side) (o : Bool) => match sd, o with
      | .right, true => 0 | .right, false => 1 | .left, false => 1 | .left, true => 2
    (cmpV p q ≠ .eq → cmpE p sp q sq = cmpV p q) ∧
    (cmpV p q = .eq → cmpE p sp q sq = compare (pos sp p.opn) (pos sq q.opn)) ∧
    cmpE p sp p sp = .eq ∧ cmpE q sq p sp = (cmpE p sp q sq).swap ∧
    ∀ (r : Gnum) (sr : Side), cmpE p sp q sq ≠ .gt → cmpE q sq r sr ≠ .gt → cmpE p sp r sr ≠ .gt) ∧
  ∀ p q : Gnum,
    (cmpE p .left q .left = .eq ↔ ∀ x : ExtNum,
      ((if p.opn then p.toNum < x else p.toNum ≤ x) ↔ (if q.opn then q.toNum < x else q.toNum ≤ x))) ∧
    (cmpE p .right q .right = .eq ↔ ∀ x : ExtNum,
      ((if p.opn then x < p.toNum else x ≤ p.toNum) ↔ (if q.opn then x < q.toNum else x ≤ q.toNum)))

/-- What the predicates say of the sets: an interval is ill-formed iff it is empty, and on well-formed
intervals CLT, CGT, CNEQ, CSEQ, CIDN and `encloses` are all-less, all-greater, disjoint, meeting, equal and
containing (R184 to R190). -/
def Obligations.PredicatesMeanTheirSets : Prop :=
  (∀ g : Gbnd, g.nan = false → (illformed g = true ↔ ∀ x : ExtNum, ¬ g.Holds x)) ∧
  ∀ a b : Gbnd, a.Proper → b.Proper →
    (tLess a b = true ↔ ∀ x y : ExtNum, a.Holds x → b.Holds y → x < y) ∧
    (tGreater a b = true ↔ ∀ x y : ExtNum, a.Holds x → b.Holds y → y < x) ∧
    (tNowhereEqual a b = true ↔ ∀ x : ExtNum, ¬ (a.Holds x ∧ b.Holds x)) ∧
    (tSomewhereEqual a b = true ↔ ∃ x : ExtNum, a.Holds x ∧ b.Holds x) ∧
    (identical a b = true ↔ ∀ x : ExtNum, a.Holds x ↔ b.Holds x) ∧
    (encloses a b = true ↔ ∀ x : ExtNum, b.Holds x → a.Holds x)

/-- MIN, MAX, CLIPL, CLIPH and NEGG select or negate ends by the rules' formulas, write the result normalised,
and set NANF and CLIP; NaN in gives NaN out (R191 to R195). -/
def Obligations.SelectorCommands : Prop :=
  ∀ (s : State) (rd ra rb : GReg), s.env.v = true →
    let a := s.readG ra
    let b := s.readG rb
    let nan : Gbnd := { nan := true, l := ⟨⟨false, 0, 0⟩, true, false⟩, r := ⟨⟨false, 0, 0⟩, true, false⟩ }
    let writes := fun (i : Instr) (x : Status) (l r : Gnum) => ∃ z : Gbnd,
      exec i s = .next { s with g := s.g.set rd z, status := x } ∧ z.nan = false ∧
      WrittenNormalised s.cfg z.l l ∧ WrittenNormalised s.cfg z.r r
    let writesNan := fun (i : Instr) (x : Status) => exec i s = .next { s with g := s.g.set rd nan, status := x }
    let flag := fun x : Bool => { s.status with nanf := x }
    let clip := fun x y : Bool => { s.status with clip := x, nanf := y }
    opOf (encode (.min rd ra rb)) = 0x48 ∧ opOf (encode (.max rd ra rb)) = 0x49 ∧
    opOf (encode (.clipl rd ra rb)) = 0x4A ∧ opOf (encode (.cliph rd ra rb)) = 0x4B ∧
    opOf (encode (.negg rd ra)) = 0x4C ∧
    (a.nan = true ∨ b.nan = true →
      writesNan (.min rd ra rb) (flag true) ∧ writesNan (.max rd ra rb) (flag true) ∧
      writesNan (.clipl rd ra rb) (clip false true) ∧ writesNan (.cliph rd ra rb) (clip false true)) ∧
    (a.nan = false → b.nan = false →
      writes (.min rd ra rb) (flag false)
        (if cmpE a.l .left b.l .left ≠ .gt then a.l else b.l)
        (if cmpE a.r .right b.r .right ≠ .gt then a.r else b.r) ∧
      writes (.max rd ra rb) (flag false)
        (if cmpE a.l .left b.l .left ≠ .lt then a.l else b.l)
        (if cmpE a.r .right b.r .right ≠ .lt then a.r else b.r) ∧
      (cmpE b.l .left a.l .left = .gt → writes (.clipl rd ra rb) (clip true false) b.l a.r) ∧
      (cmpE b.l .left a.l .left ≠ .gt → writes (.clipl rd ra rb) (clip false false) a.l a.r) ∧
      (cmpE b.r .right a.r .right = .lt → writes (.cliph rd ra rb) (clip true false) a.l b.r) ∧
      (cmpE b.r .right a.r .right ≠ .lt → writes (.cliph rd ra rb) (clip false false) a.l a.r)) ∧
    (a.nan = true → writesNan (.negg rd ra) (flag true)) ∧
    (a.nan = false → writes (.negg rd ra) (flag false) a.r.neg a.l.neg)

/-- MIN and MAX of well-formed intervals are well formed and are the sets of the least and of the greatest of
an element of each (R191, R192, R196 (c)); `encloses` is reflexive and transitive. -/
def Obligations.MinAndMaxAreTheSetsOfLeastAndGreatest : Prop :=
  (∀ a b : Gbnd, a.Proper → b.Proper →
    (minG a b).Proper ∧ (maxG a b).Proper ∧
    (∀ z : ExtNum, (minG a b).Holds z ↔ ∃ x y, a.Holds x ∧ b.Holds y ∧ z = min x y) ∧
    ∀ z : ExtNum, (maxG a b).Holds z ↔ ∃ x y, a.Holds x ∧ b.Holds y ∧ z = max x y) ∧
  (∀ a : Gbnd, encloses a a = true) ∧
  ∀ a b c : Gbnd, encloses a b = true → encloses b c = true → encloses a c = true

/-- Negation mirrors the elements of an interval, and twice gives the interval back (R195, R196 (b)). -/
def Obligations.NegationMirrorsAndIsAnInvolution : Prop :=
  ∀ g : Gbnd, g.nan = false →
    (negg g).nan = false ∧ identical (negg (negg g)) g = true ∧
    (illformed (negg g) = illformed g) ∧
    (∀ x : ℚ, (negg g).Holds ((x : WithTop ℚ) : ExtNum) ↔ g.Holds (((-x : ℚ) : WithTop ℚ) : ExtNum)) ∧
    ((negg g).Holds ((⊤ : WithTop ℚ) : ExtNum) ↔ g.Holds ⊥) ∧
    ((negg g).Holds ⊥ ↔ g.Holds ((⊤ : WithTop ℚ) : ExtNum))

/-- The normalised encoding of an endpoint is the same endpoint: `man` odd, or all of a zero's fields 0; an
infinity has `man = 1`, `exp = 0`, and one with value 0 is +∞; one number has one normalised encoding
(10_state.md R27). -/
def Obligations.NormalisationKeepsTheEndpoint : Prop :=
  (∀ p : Gnum, p.norm.toNum = p.toNum ∧ p.norm.opn = p.opn ∧ p.norm.inf = p.inf ∧ p.norm.norm = p.norm ∧
    (p.inf = true → p.norm.val.man = 1 ∧ p.norm.val.exp = 0) ∧
    (p.inf = true → p.val.man = 0 → p.toNum = ((⊤ : WithTop ℚ) : ExtNum)) ∧
    (p.inf = false → p.norm.val.man % 2 = 1 ∨
      (p.norm.val.man = 0 ∧ p.norm.val.exp = 0 ∧ p.norm.val.sg = false))) ∧
  ∀ p q : Gnum, p.toNum = q.toNum → p.opn = q.opn → p.inf = q.inf → p.norm = q.norm

/-! ### The unification controller (44_unify.md) -/

/-- UNIFY writes the controller's bound, its report in UCTL, UNI and NANF (R224). -/
def Obligations.UnifyCommand : Prop :=
  ∀ (s : State) (rd ra : BReg), s.env.v = true → s.allCanonical →
    let r := unify s.env (s.readB ra)
    opOf (encode (.unify rd ra)) = 0x50 ∧
    exec (.unify rd ra) s = .next { s with
      b := s.b.set rd r.bound,
      uctl := ⟨BitVec.ofNat 4 r.exit.code, BitVec.ofNat 5 r.eiter, BitVec.ofNat 12 r.fiter, r.neg⟩,
      status := { s.status with uni := !r.bound.p, nanf := (b2g s.env r.bound).nan } }

/-- The unified bound holds every element of the bound given; a NaN bound is unchanged (R227). -/
def Obligations.UnifyEnclosesTheBound : Prop :=
  ∀ (E : Env) (b : Ubound), CanonicalBound E b →
    let c := (unify E b).bound
    CanonicalBound E c ∧
    ((b2g E b).nan = true → c = b) ∧
    ((b2g E b).nan = false → (b2g E c).nan = false ∧ encloses (b2g E c) (b2g E b) = true ∧
      ∀ x : ExtNum, (b2g E b).Holds x → (b2g E c).Holds x)

/-- The exits of the controller: their codes, when each is taken and the bound it leaves, and the bounds on the
demotion steps (R211, R222, R227, R228). The order of the tests, which unum SAMEPT keeps, the mirrored SKIP and
the cases ZERO to CLOSEDINF are steps 1 to 10 of the algorithm (R212, with R213 to R219). The widest patterns
and the nudges rest on what the spec marks as general knowledge (log 9). -/
def Obligations.UnifyExits : Prop :=
  (UnifyExit.single.code = 0 ∧ UnifyExit.nanpass.code = 1 ∧ UnifyExit.infpass.code = 2 ∧
    UnifyExit.illpass.code = 3 ∧ UnifyExit.samept.code = 4 ∧ UnifyExit.skip.code = 5 ∧
    UnifyExit.zero.code = 6 ∧ UnifyExit.nudge.code = 7 ∧ UnifyExit.satmax.code = 8 ∧
    UnifyExit.openinf.code = 9 ∧ UnifyExit.search.code = 10 ∧ UnifyExit.fail.code = 11 ∧
    UnifyExit.closedinf.code = 12) ∧
  ∀ (E : Env) (b : Ubound), CanonicalBound E b →
    let r := unify E b
    let g := b2g E b
    let bothInf := g.l.inf = true ∧ g.r.inf = true ∧ g.l.toNum = g.r.toNum
    let same := identical (u2g E b.l) (u2g E b.r) = true
    let holds := fun k : ℚ => g.Holds ((k : WithTop ℚ) : ExtNum)
    (b.p = false → r.exit = .single) ∧
    (b.p = true → g.nan = true → r.exit = .nanpass) ∧
    (b.p = true → g.nan = false → bothInf → r.exit = .infpass) ∧
    (b.p = true → g.nan = false → ¬ bothInf → illformed g = true → r.exit = .illpass) ∧
    (b.p = true → g.Proper → ¬ bothInf → same → r.exit = .samept ∧
      r.bound = { p := false, l := if numbits E b.r < numbits E b.l then b.r else b.l, r := 0 }) ∧
    (b.p = true → g.Proper → ¬ bothInf → ¬ same →
      (r.exit = .skip ↔ ∃ k : ℚ, (k = 0 ∨ k = 1 ∨ k = 2 ∨ k = 3) ∧
        (holds k ∨ (g.r.toNum ≤ ((0 : ℚ) : WithTop ℚ) ∧ holds (-k))))) ∧
    (b.p = true → g.Proper → ¬ bothInf → ¬ same →
      (r.neg = true ↔ g.r.toNum ≤ ((0 : ℚ) : WithTop ℚ) ∧ g.l.toNum < ((0 : ℚ) : WithTop ℚ)) ∧
      (r.exit ≠ .skip → r.RunsCandidate E b (if r.neg then negg g else g))) ∧
    (r.exit ∈ [.single, .nanpass, .infpass, .illpass, .samept] → r.neg = false) ∧
    (r.exit ∈ [.single, .nanpass, .infpass, .illpass, .samept, .skip] → r.eiter = 0 ∧ r.fiter = 0) ∧
    (r.exit ∈ [.single, .nanpass, .infpass, .illpass, .skip, .fail, .closedinf] → r.bound = b) ∧
    (r.exit ∈ [.samept, .zero, .nudge, .satmax, .openinf, .search] →
      r.bound.p = false ∧ r.bound.r = 0) ∧
    r.eiter ≤ 2 ^ E.ess.toNat - 1 ∧ r.fiter ≤ 2 ^ E.fss.toNat - 1

/-- The candidate of the zero case: the inexact zero of exponent size `min(esmax, j + 1)` for the greatest `j`
with `r ≤ 2^(1 - 2^j)`, the interval from 0 to `2^(1 - 2^(es-1))` (R216). -/
def Obligations.ZeroCandidateIsTheGreatest : Prop :=
  ∀ (E : Env) (r : Dyad), 0 < r.toRat → r.toRat < 1 →
    ∃ j : Nat, r.toRat ≤ 2 ^ (1 - (2 : Int) ^ j) ∧
      (∀ k : Nat, j < k → ¬ r.toRat ≤ 2 ^ (1 - (2 : Int) ^ k)) ∧
      let es := min (2 ^ E.ess.toNat) (j + 1)
      let u := zerocand E r
      HasFields E u false 0 0 true es 1 ∧
      (u2g E u).nan = false ∧ (u2g E u).l = ⟨⟨false, 0, 0⟩, true, false⟩ ∧ (u2g E u).r.opn = true ∧
      (u2g E u).r.toNum = (((2 : ℚ) ^ (1 - (2 : Int) ^ (es - 1)) : ℚ) : WithTop ℚ)

end
end

