-- ==== Sys2Proof/Laws/Encoding.lean ====
section
/-! SUPPORT. Splitting the word that joining fields gives (30_encoding.md R70, R78). -/

namespace Sys2Proof

/-- Joining fields that fit and splitting again gives the fields. -/
theorem fieldsOf_joinFields {op rd ra rb imm : Nat} (ho : op < 256) (hd : rd < 16) (ha : ra < 16)
    (hb : rb < 16) (hi : imm < 4096) :
    fieldsOf (joinFields op rd ra rb imm) = { op := op, rd := rd, ra := ra, rb := rb, imm := imm } := by
  simp only [fieldsOf, joinFields, slice, BitVec.toNat_ofNat, Fields.mk.injEq]
  norm_num
  omega

/-- The fields of a word join to the word. -/
theorem joinFields_fieldsOf (w : Word) :
    joinFields (fieldsOf w).op (fieldsOf w).rd (fieldsOf w).ra (fieldsOf w).rb (fieldsOf w).imm = w := by
  apply BitVec.eq_of_toNat_eq
  have := w.isLt
  simp only [fieldsOf, joinFields, slice, BitVec.toNat_ofNat]
  norm_num
  omega

/-- Every field of a word fits its bits. -/
theorem fieldsOf_lt (w : Word) :
    (fieldsOf w).op < 256 ∧ (fieldsOf w).rd < 16 ∧ (fieldsOf w).ra < 16 ∧ (fieldsOf w).rb < 16 ∧
      (fieldsOf w).imm < 4096 := by
  simp only [fieldsOf, slice]
  norm_num
  omega

/-- What a U register field decodes to, where it does. -/
theorem uReg_ok {x : Nat} {k : UReg → Decoded} {i : Instr} (h : uReg x k = .ok i) :
    ∃ r : UReg, r.val = x ∧ k r = .ok i := by
  unfold uReg at h
  split at h
  · exact ⟨⟨x, by assumption⟩, rfl, h⟩
  · cases h

/-- What a B or G register field decodes to, where it does. -/
theorem reg4_ok {x : Nat} {k : Fin 4 → Decoded} {i : Instr} (h : reg4 x k = .ok i) :
    ∃ r : Fin 4, r.val = x ∧ k r = .ok i := by
  unfold reg4 at h
  split at h
  · exact ⟨⟨x, by assumption⟩, rfl, h⟩
  · cases h

/-- An unused field that decodes is 0. -/
theorem unused_ok {x : Nat} {k : Decoded} {i : Instr} (h : unused x k = .ok i) : x = 0 ∧ k = .ok i := by
  unfold unused at h
  split at h
  · exact ⟨by assumption, h⟩
  · cases h

/-- An unused immediate that decodes is 0. -/
theorem noImm_ok {f : Fields} {k : Decoded} {i : Instr} (h : noImm f k = .ok i) : f.imm = 0 ∧ k = .ok i := by
  unfold noImm at h
  split at h
  · exact ⟨by assumption, h⟩
  · cases h

theorem uReg_val (r : UReg) (k : UReg → Decoded) : uReg r.val k = k r := by
  simp [uReg, r.isLt]

theorem reg4_val (r : Fin 4) (k : Fin 4 → Decoded) : reg4 r.val k = k r := by
  simp [reg4, r.isLt]

end Sys2Proof
end

