-- ==== Sys2Proof/Laws/Format.lean ====
section
/-! SUPPORT. The unum format: bit fields of sums, the fields of an assembled unum (41_tag.md R121), and the
canonical form (10_state.md R24). -/

namespace Sys2Proof

/-- Bits below `k` do not see what is added from bit `k` up. -/
theorem slice_add_high {x y k lo n : Nat} (h : lo + n ≤ k) : slice (x + y * 2 ^ k) lo n = slice x lo n := by
  obtain ⟨d, rfl⟩ := Nat.exists_eq_add_of_le h
  have : x + y * 2 ^ (lo + n + d) = x + 2 ^ lo * (2 ^ n * (y * 2 ^ d)) := by ring
  rw [slice, slice, this, Nat.add_mul_div_left _ _ (Nat.two_pow_pos lo), Nat.add_mul_mod_self_left]

/-- Bits from `k` up do not see a part below `2^k`. -/
theorem slice_add_low {x y k lo n : Nat} (hx : x < 2 ^ k) (h : k ≤ lo) :
    slice (x + y * 2 ^ k) lo n = slice y (lo - k) n := by
  obtain ⟨d, rfl⟩ := Nat.exists_eq_add_of_le h
  have : (x + y * 2 ^ k) / 2 ^ k = y := by
    rw [Nat.mul_comm, Nat.add_mul_div_left _ _ (Nat.two_pow_pos k), Nat.div_eq_of_lt hx, Nat.zero_add]
  rw [slice, slice, Nat.pow_add, ← Nat.div_div_eq_div_mul, this, Nat.add_sub_cancel_left]

theorem slice_of_lt {x n : Nat} (h : x < 2 ^ n) : slice x 0 n = x := by
  simp [slice, Nat.mod_eq_of_lt h]

theorem slice_lt (v lo n : Nat) : slice v lo n < 2 ^ n := Nat.mod_lt _ (Nat.two_pow_pos n)

theorem slice_zero_le (v n : Nat) : slice v 0 n ≤ v := by
  simp only [slice, Nat.pow_zero, Nat.div_one]
  exact Nat.mod_le _ _

theorem slice_one_eq_testBit (v k : Nat) : (slice v k 1 == 1) = v.testBit k := by
  rw [Nat.testBit_eq_decide_div_mod_eq]
  simp only [slice, Nat.pow_one, beq_eq_decide]

/-- Appending `n` bits above bit `k`. -/
theorem append_lt {x y k n : Nat} (hx : x < 2 ^ k) (hy : y < 2 ^ n) : x + y * 2 ^ k < 2 ^ (k + n) := by
  have h1 : y + 1 ≤ 2 ^ n := hy
  have h2 : (y + 1) * 2 ^ k ≤ 2 ^ n * 2 ^ k := Nat.mul_le_mul_right _ h1
  rw [Nat.pow_add, Nat.mul_comm (2 ^ k)]
  nlinarith

/-- Taking the low `m` bits keeps every field below bit `m`. -/
theorem slice_slice_zero {v m lo n : Nat} (h : lo + n ≤ m) : slice (slice v 0 m) lo n = slice v lo n := by
  have hv : v = slice v 0 m + v / 2 ^ m * 2 ^ m := by
    simp only [slice, Nat.pow_zero, Nat.div_one]
    rw [Nat.mul_comm]
    exact (Nat.mod_add_div v (2 ^ m)).symm
  conv_rhs => rw [hv]
  rw [slice_add_high h]

namespace Machine

theorem fsOf_pos (E : Env) (u : Unum) : 1 ≤ fsOf E u := Nat.le_add_left _ _

theorem esOf_pos (E : Env) (u : Unum) : 1 ≤ esOf E u := Nat.le_add_left _ _

theorem fsOf_le (E : Env) (u : Unum) : fsOf E u ≤ E.fsmax := slice_lt _ _ _

theorem esOf_le (E : Env) (u : Unum) : esOf E u ≤ E.esmax := slice_lt _ _ _

theorem fracOf_lt (E : Env) (u : Unum) : fracOf E u < 2 ^ fsOf E u := slice_lt _ _ _

theorem expoOf_lt (E : Env) (u : Unum) : expoOf E u < 2 ^ esOf E u := slice_lt _ _ _

/-- `utagmask` has ones in exactly the tag's bits (00_scope.md R6). -/
theorem utagmask_testBit (E : Env) (k : Nat) : E.utagmask.testBit k = decide (k < E.utagsize) :=
  Nat.testBit_two_pow_sub_one _ _

/-- `utagmask` selects the tag of a unum (00_scope.md R6, 10_state.md R23). -/
theorem utag_of_mask (E : Env) (u : Unum) : u &&& E.utagmask = slice u 0 E.utagsize := by
  rw [Env.utagmask, Nat.and_two_pow_sub_one_eq_mod]
  simp [slice]

/-- POSOPENZERO is the tag mask: the maximum tag with ubit 1 and a payload of zeros (10_state.md R26). -/
theorem openZeroPattern_eq_utagmask (E : Env) : openZeroPattern E false = E.utagmask := by
  have h1 := Nat.two_pow_pos E.ess.toNat
  have h2 := Nat.two_pow_pos E.fss.toNat
  have h3 : 2 ^ (1 + E.ess.toNat + E.fss.toNat) = 2 * (2 ^ E.ess.toNat * 2 ^ E.fss.toNat) := by ring
  have h4 : (2 ^ E.ess.toNat - 1) * 2 ^ E.fss.toNat + 2 ^ E.fss.toNat = 2 ^ E.ess.toNat * 2 ^ E.fss.toNat := by
    rw [← Nat.succ_mul]; congr 1; omega
  have h5 : 2 ^ (E.fss.toNat + E.ess.toNat) = 2 ^ E.ess.toNat * 2 ^ E.fss.toNat := by ring
  simp only [openZeroPattern, mk, Env.utagmask, Env.utagsize, Env.esmax, Env.fsmax, h3, h5, Bool.toNat_true,
    Bool.toNat_false, Nat.zero_mul, Nat.one_mul, Nat.add_zero]
  change (_ : Nat) = _
  omega

/-- `numbits` never passes `maxubits` (00_scope.md R6). -/
theorem numbits_le (E : Env) (u : Unum) : numbits E u ≤ E.maxubits := by
  have h1 := fsOf_le E u
  have h2 := esOf_le E u
  simp only [numbits, Env.utagsize, Env.maxubits]
  omega

/-- Field assembly is the inverse of field extraction (41_tag.md R121). -/
theorem mk_hasFields (E : Env) (s : Bool) {e f : Nat} (ub : Bool) {es fs : Nat}
    (hfs1 : 1 ≤ fs) (hfs : fs ≤ E.fsmax) (hes1 : 1 ≤ es) (hes : es ≤ E.esmax)
    (hf : f < 2 ^ fs) (he : e < 2 ^ es) : HasFields E (mk E s e f ub es fs) s e f ub es fs := by
  have ha : fs - 1 < 2 ^ E.fss.toNat := by unfold Env.fsmax at hfs; omega
  have hb : es - 1 < 2 ^ E.ess.toNat := by unfold Env.esmax at hes; omega
  have hub : ub.toNat < 2 ^ 1 := by cases ub <;> decide
  have hs : s.toNat < 2 ^ 1 := by cases s <;> decide
  have hk : E.fss.toNat + E.ess.toNat + 1 = E.utagsize := by unfold Env.utagsize; omega
  have b1 := append_lt ha hb
  have b2 := append_lt b1 hub
  rw [hk] at b2
  have b3 := append_lt b2 hf
  have b4 := append_lt b3 he
  have b5 := append_lt b4 hs
  have hfsOf : fsOf E (mk E s e f ub es fs) = fs := by
    unfold fsOf mk
    rw [slice_add_high (by unfold Env.utagsize; omega), slice_add_high (by unfold Env.utagsize; omega),
      slice_add_high (by unfold Env.utagsize; omega), slice_add_high (by omega), slice_add_high (by omega),
      slice_of_lt ha]
    omega
  have hesOf : esOf E (mk E s e f ub es fs) = es := by
    unfold esOf mk
    rw [slice_add_high (by unfold Env.utagsize; omega), slice_add_high (by unfold Env.utagsize; omega),
      slice_add_high (by unfold Env.utagsize; omega), slice_add_high (by omega), slice_add_low ha (by omega),
      Nat.sub_self, slice_of_lt hb]
    omega
  refine ⟨?_, ?_, ?_, ?_, hesOf, hfsOf, ?_⟩
  · unfold signOf
    rw [hfsOf, hesOf]
    unfold mk
    rw [slice_add_low b4 (Nat.le_refl _), Nat.sub_self, slice_of_lt hs]
    cases s <;> rfl
  · unfold expoOf
    rw [hfsOf, hesOf]
    unfold mk
    rw [slice_add_high (Nat.le_refl _), slice_add_low b3 (Nat.le_refl _), Nat.sub_self, slice_of_lt he]
  · unfold fracOf
    rw [hfsOf]
    unfold mk
    rw [slice_add_high (by omega), slice_add_high (Nat.le_refl _), slice_add_low b2 (Nat.le_refl _),
      Nat.sub_self, slice_of_lt hf]
  · unfold ubitOf mk
    rw [slice_add_high (by omega), slice_add_high (by omega), slice_add_high (by omega),
      slice_add_low b1 (Nat.le_refl _), Nat.sub_self, slice_of_lt hub]
    cases ub <;> rfl
  · unfold Canonical numbits
    rw [hfsOf, hesOf]
    unfold mk
    exact b5

/-- A canonical unum is the assembly of its fields (41_tag.md R121). -/
theorem mk_fields {E : Env} {u : Unum} (h : Canonical E u) :
    mk E (signOf E u) (expoOf E u) (fracOf E u) (ubitOf E u) (esOf E u) (fsOf E u) = u := by
  have split : ∀ v lo n, v / 2 ^ lo = slice v lo n + v / 2 ^ (lo + n) * 2 ^ n := by
    intro v lo n
    rw [Nat.pow_add, ← Nat.div_div_eq_div_mul, slice, Nat.mul_comm]
    exact (Nat.mod_add_div _ _).symm
  have bit : ∀ v k, (slice v k 1 == 1).toNat = slice v k 1 := by
    intro v k
    have := slice_lt v k 1
    interval_cases slice v k 1 <;> rfl
  have h1 := split u 0 E.fss.toNat
  have h2 := split u (0 + E.fss.toNat) E.ess.toNat
  have h3 := split u (0 + E.fss.toNat + E.ess.toNat) 1
  have h4 := split u (0 + E.fss.toNat + E.ess.toNat + 1) (fsOf E u)
  have h5 := split u (0 + E.fss.toNat + E.ess.toNat + 1 + fsOf E u) (esOf E u)
  have h6 := split u (0 + E.fss.toNat + E.ess.toNat + 1 + fsOf E u + esOf E u) 1
  have hk : 0 + E.fss.toNat + E.ess.toNat + 1 = E.utagsize := by unfold Env.utagsize; omega
  have hz : u / 2 ^ (0 + E.fss.toNat + E.ess.toNat + 1 + fsOf E u + esOf E u + 1) = 0 := by
    apply Nat.div_eq_of_lt
    rw [hk]
    exact h
  rw [hz] at h6
  rw [hk] at h3 h4 h5 h6
  simp only [Nat.zero_add, Nat.pow_zero, Nat.div_one, Nat.zero_mul, Nat.add_zero] at h1 h2 h3 h6
  have e1 : fsOf E u - 1 = slice u 0 E.fss.toNat := rfl
  have e2 : esOf E u - 1 = slice u E.fss.toNat E.ess.toNat := rfl
  have e3 : (ubitOf E u).toNat = slice u (E.fss.toNat + E.ess.toNat) 1 := bit _ _
  have e4 : (signOf E u).toNat = slice u (E.utagsize + fsOf E u + esOf E u) 1 := bit _ _
  have e5 : fracOf E u = slice u E.utagsize (fsOf E u) := rfl
  have e6 : expoOf E u = slice u (E.utagsize + fsOf E u) (esOf E u) := rfl
  unfold mk
  rw [e1, e2, e3, e4, e5, e6]
  have hk' : (2 : Nat) ^ E.utagsize = 2 ^ E.fss.toNat * 2 ^ E.ess.toNat * 2 := by
    rw [← hk, Nat.zero_add, Nat.pow_succ, Nat.pow_add]
  rw [Nat.pow_add 2 (E.utagsize + fsOf E u), Nat.pow_add 2 E.utagsize, hk', Nat.pow_add]
  conv_rhs => rw [h1, h2, h3, h4, h5, h6]
  ring

/-- `canon` keeps the tag. -/
theorem fsOf_canon (E : Env) (u : Unum) : fsOf E (canon E u) = fsOf E u := by
  unfold fsOf canon
  rw [slice_slice_zero (by unfold numbits Env.utagsize; omega)]

theorem esOf_canon (E : Env) (u : Unum) : esOf E (canon E u) = esOf E u := by
  unfold esOf canon
  rw [slice_slice_zero (by unfold numbits Env.utagsize; omega)]

theorem numbits_canon (E : Env) (u : Unum) : numbits E (canon E u) = numbits E u := by
  simp only [numbits, fsOf_canon, esOf_canon]

/-- `canon` gives a canonical unum. -/
theorem canonical_canon (E : Env) (u : Unum) : Canonical E (canon E u) := by
  unfold Canonical
  rw [numbits_canon]
  exact slice_lt _ _ _

/-- `canon` leaves a canonical unum as it is. -/
theorem canon_of_canonical {E : Env} {u : Unum} (h : Canonical E u) : canon E u = u := slice_of_lt h

/-- `canon` keeps every field. -/
theorem canon_fields (E : Env) (u : Unum) :
    HasFields E (canon E u) (signOf E u) (expoOf E u) (fracOf E u) (ubitOf E u) (esOf E u) (fsOf E u) := by
  refine ⟨?_, ?_, ?_, ?_, esOf_canon E u, fsOf_canon E u, canonical_canon E u⟩
  · unfold signOf
    rw [fsOf_canon, esOf_canon]
    unfold canon
    rw [slice_slice_zero (by unfold numbits; omega)]
  · unfold expoOf
    rw [fsOf_canon, esOf_canon]
    unfold canon
    rw [slice_slice_zero (by unfold numbits; omega)]
  · unfold fracOf
    rw [fsOf_canon]
    unfold canon
    rw [slice_slice_zero (by unfold numbits; omega)]
  · unfold ubitOf canon
    rw [slice_slice_zero (by unfold numbits Env.utagsize; omega)]

/-- Two canonical unums with the same fields are the same unum. -/
theorem hasFields_unique {E : Env} {u v : Unum} {s : Bool} {e f : Nat} {ub : Bool} {es fs : Nat}
    (hu : HasFields E u s e f ub es fs) (hv : HasFields E v s e f ub es fs) : u = v := by
  obtain ⟨rfl, rfl, rfl, rfl, rfl, rfl, cu⟩ := hu
  obtain ⟨h1, h2, h3, h4, h5, h6, cv⟩ := hv
  rw [← mk_fields cu, ← mk_fields cv, h1, h2, h3, h4, h5, h6]

end Machine

end Sys2Proof
end

