-- ==== Sys2Proof/Laws/Memory.lean ====
section
/-! SUPPORT. The operand buffer: what a byte reads as after a write, and that every memory operation keeps the
canonical form. -/

namespace Sys2Proof.Machine

@[simp] theorem Memory.read_nil (a : Nat) : Memory.read [] a = Memory.unlisted := rfl

theorem Memory.read_cons (c : Host.Cell) (m : Memory) (a : Nat) :
    Memory.read (c :: m) a = if c.1 = a then c.2 else Memory.read m a := rfl

/-- A byte below every listed address reads as unlisted. -/
theorem Memory.read_below {m : Memory} {a : Nat} (h : ∀ c ∈ m, a < c.1) : Memory.read m a = Memory.unlisted := by
  induction m with
  | nil => rfl
  | cons c m ih =>
    rw [Memory.read_cons, if_neg (by have := h c (by simp); omega)]
    exact ih fun d hd => h d (by simp [hd])

/-- Every address a write leaves in the list stood there before or is the one written. -/
theorem Memory.mem_write {m : Memory} {a : Nat} {v : Byte} {d : Host.Cell} (h : d ∈ Memory.write m a v) :
    d ∈ m ∨ d = (a, v) ∧ v ≠ Memory.unlisted := by
  induction m with
  | nil =>
    simp only [Memory.write] at h
    split at h <;> simp_all
  | cons c m ih =>
    simp only [Memory.write] at h
    split at h
    · split at h
      · exact .inl h
      · rcases List.mem_cons.mp h with rfl | h
        · exact .inr ⟨rfl, by assumption⟩
        · exact .inl h
    · split at h
      · split at h
        · exact .inl (List.mem_cons_of_mem _ h)
        · rcases List.mem_cons.mp h with rfl | h
          · exact .inr ⟨rfl, by assumption⟩
          · exact .inl (List.mem_cons_of_mem _ h)
      · simp only [List.mem_cons] at h
        rcases h with h | h
        · simp [h]
        · rcases ih h with h | h
          · simp [h]
          · simp [h]

/-- A write keeps the canonical form. -/
theorem Memory.wf_write {m : Memory} (h : Memory.wf m) (a : Nat) (v : Byte) : Memory.wf (Memory.write m a v) := by
  induction m with
  | nil =>
    simp only [Memory.write]
    split
    · exact h
    · simp_all [Memory.wf]
  | cons c m ih =>
    have hm : Memory.wf m := ⟨(List.pairwise_cons.mp h.1).2, fun d hd => h.2 d (by simp [hd])⟩
    have hc : ∀ d ∈ m, c.1 < d.1 := (List.pairwise_cons.mp h.1).1
    simp only [Memory.write]
    split
    · rename_i hac
      split
      · exact h
      · rename_i hv
        refine ⟨List.pairwise_cons.mpr ⟨?_, h.1⟩, ?_⟩
        · intro d hd
          rcases List.mem_cons.mp hd with rfl | hd
          · exact hac
          · exact Nat.lt_trans hac (hc d hd)
        · intro d hd
          rcases List.mem_cons.mp hd with rfl | hd
          · exact hv
          · exact h.2 d hd
    · split
      · rename_i hac
        split
        · exact hm
        · rename_i hv
          refine ⟨List.pairwise_cons.mpr ⟨fun d hd => ?_, hm.1⟩, ?_⟩
          · have := hc d hd
            simpa [hac] using this
          · intro d hd
            rcases List.mem_cons.mp hd with rfl | hd
            · exact hv
            · exact hm.2 d hd
      · rename_i h1 h2
        have hw := ih hm
        refine ⟨List.pairwise_cons.mpr ⟨?_, hw.1⟩, ?_⟩
        · intro d hd
          rcases Memory.mem_write hd with hd | ⟨rfl, _⟩
          · exact hc d hd
          · simp only
            omega
        · intro d hd
          rcases List.mem_cons.mp hd with rfl | hd
          · exact h.2 _ (by simp)
          · exact hw.2 d hd

/-- Read after write: the byte written, and every other byte as before. -/
theorem Memory.read_write {m : Memory} (h : Memory.wf m) (a b : Nat) (v : Byte) :
    Memory.read (Memory.write m a v) b = if b = a then v else Memory.read m b := by
  induction m with
  | nil =>
    simp only [Memory.write]
    split
    · split <;> simp_all
    · rw [Memory.read_cons]
      simp only [Memory.read_nil, eq_comm (a := a)]
  | cons c m ih =>
    have hm : Memory.wf m := ⟨(List.pairwise_cons.mp h.1).2, fun d hd => h.2 d (by simp [hd])⟩
    have hc : ∀ d ∈ m, c.1 < d.1 := (List.pairwise_cons.mp h.1).1
    simp only [Memory.write]
    split
    · rename_i hac
      have hb : Memory.read (c :: m) a = Memory.unlisted :=
        Memory.read_below fun d hd => by
          rcases List.mem_cons.mp hd with rfl | hd
          · exact hac
          · exact Nat.lt_trans hac (hc d hd)
      split
      · rename_i hv
        by_cases hba : b = a
        · subst hba; simp [hb, hv]
        · simp [hba]
      · rw [Memory.read_cons]
        simp only [eq_comm (a := a)]
    · split
      · rename_i _ hac
        subst hac
        have hb : Memory.read m c.1 = Memory.unlisted := Memory.read_below hc
        split
        · rename_i hv
          rw [Memory.read_cons]
          by_cases hba : b = c.1
          · subst hba; simp [hb, hv]
          · have hcb : ¬ c.1 = b := Ne.symm hba
            simp [hba, hcb]
        · rw [Memory.read_cons, Memory.read_cons]
          by_cases hba : b = c.1
          · simp [hba]
          · have hcb : ¬ c.1 = b := Ne.symm hba
            simp [hba, hcb]
      · rename_i h1 h2
        rw [Memory.read_cons, Memory.read_cons, ih hm]
        by_cases hcb : c.1 = b
        · have : b ≠ a := by omega
          simp [hcb, this]
        · simp [hcb]

/-- A write of several bytes keeps the canonical form. -/
theorem Memory.wf_writeBytes {m : Memory} (h : Memory.wf m) (a : Nat) (bs : List Byte) :
    Memory.wf (m.writeBytes a bs) := by
  induction bs generalizing m a with
  | nil => exact h
  | cons v vs ih => exact ih (Memory.wf_write h a v) (a + 1)

/-- Read after a write of several bytes: the byte stored there, and every byte outside as before. -/
theorem Memory.read_writeBytes {m : Memory} (h : Memory.wf m) (a : Nat) (bs : List Byte) (b : Nat) :
    Memory.read (m.writeBytes a bs) b =
      if a ≤ b then (bs[b - a]?).getD (Memory.read m b) else Memory.read m b := by
  induction bs generalizing m a with
  | nil => simp [Memory.writeBytes]
  | cons v vs ih =>
    rw [Memory.writeBytes, ih (Memory.wf_write h a v), Memory.read_write h]
    by_cases hab : a ≤ b
    · by_cases hba : b = a
      · subst hba; simp
      · obtain ⟨k, hk⟩ : ∃ k, b - a = k + 1 := ⟨b - a - 1, by omega⟩
        have h1 : a + 1 ≤ b := by omega
        have h2 : b - (a + 1) = k := by omega
        simp [hab, h1, hk, h2, hba]
    · simp [hab, show ¬ a + 1 ≤ b by omega, show b ≠ a by omega]

/-- The addresses a write of several bytes lists were listed before or lie among the bytes written. -/
theorem Memory.mem_writeBytes {m : Memory} {a : Nat} {bs : List Byte} {d : Host.Cell}
    (h : d ∈ Memory.writeBytes m a bs) : d ∈ m ∨ (a ≤ d.1 ∧ d.1 < a + bs.length) := by
  induction bs generalizing m a with
  | nil => exact .inl h
  | cons v vs ih =>
    rcases ih h with h | h
    · rcases Memory.mem_write h with h | ⟨rfl, _⟩
      · exact .inl h
      · exact .inr ⟨Nat.le_refl _, by simp⟩
    · exact .inr ⟨by omega, by simp only [List.length_cons]; omega⟩

@[simp] theorem Memory.length_readBytes (m : Memory) (a n : Nat) : (m.readBytes a n).length = n := by
  induction n generalizing a with
  | zero => rfl
  | succ n ih => simp [Memory.readBytes, ih]

theorem Memory.getElem?_readBytes (m : Memory) (a n k : Nat) (h : k < n) :
    (m.readBytes a n)[k]? = some (m.read (a + k)) := by
  induction n generalizing a k with
  | zero => omega
  | succ n ih =>
    cases k with
    | zero => simp [Memory.readBytes]
    | succ k => simp [Memory.readBytes, ih (a + 1) k (by omega), Nat.add_assoc, Nat.add_comm 1 k]

/-- Reading back what a write of several bytes stored. -/
theorem Memory.readBytes_writeBytes {m : Memory} (h : Memory.wf m) (a : Nat) (bs : List Byte) :
    (m.writeBytes a bs).readBytes a bs.length = bs := by
  apply List.ext_getElem?
  intro k
  by_cases hk : k < bs.length
  · rw [Memory.getElem?_readBytes _ _ _ _ hk, Memory.read_writeBytes h]
    simp [hk]
  · rw [List.getElem?_eq_none (by simpa using hk), List.getElem?_eq_none (by omega)]

@[simp] theorem length_leBytes (n v : Nat) : (leBytes n v).length = n := by
  induction n generalizing v with
  | zero => rfl
  | succ n ih => simp [leBytes, ih]

/-- Little-endian bytes and back: the low bytes of the number (20_memory.md R53). -/
theorem leNat_leBytes (n v : Nat) : leNat (leBytes n v) = v % 2 ^ (8 * n) := by
  induction n generalizing v with
  | zero => simp [leBytes, leNat, Nat.mod_one]
  | succ n ih =>
    have h : 2 ^ (8 * (n + 1)) = 2 ^ 8 * 2 ^ (8 * n) := by rw [Nat.mul_add, Nat.pow_add, Nat.mul_comm]
    rw [leBytes, leNat, ih, h, Nat.mod_mul]
    simp

@[simp] theorem length_packU (E : Env) (u : Unum) : (packU E u).length = nbytes E u := by
  simp [packU]

end Sys2Proof.Machine
end

