-- ==== Sys2Proof/Laws/Ops.lean ====
section
/-! SUPPORT. What each shared operation of the unit can do, said once. -/

namespace Sys2Proof.Machine

/-! ### The environment check and the sequencing of answers -/

theorem State.needEnv_of_env {s : State} (h : s.env.v = true) (k : State) : s.needEnv k = .next k := by
  simp [State.needEnv, h]

theorem State.needEnv_of_noEnv {s : State} (h : s.env.v = false) (k : State) :
    s.needEnv k = .next (s.raise .noEnv) := by
  simp [State.needEnv, h]

/-- The environment check answers a next state: the command's own, or the raised E_NOENV. -/
theorem State.needEnv_cases {s k t : State} (h : s.needEnv k = .next t) :
    s.env.v = true ∧ t = k ∨ s.env.v = false ∧ t = s.raise .noEnv := by
  unfold State.needEnv at h
  split at h
  · exact .inl ⟨by assumption, by cases h; rfl⟩
  · exact .inr ⟨by simp_all, by cases h; rfl⟩

theorem thenDo_next {a : Answer} {f : State → State} {t : State} (h : thenDo a f = .next t) :
    ∃ s, a = .next s ∧ t = f s := by
  cases a with
  | next s => exact ⟨s, rfl, by cases h; rfl⟩
  | fault r => cases h
  | refused r => cases h

@[simp] theorem thenDo_of_next (s : State) (f : State → State) : thenDo (.next s) f = .next (f s) := rfl

/-! ### Buffer accesses -/

/-- A load of a packed unum raises E_RANGE only. -/
theorem State.unpackU_error {s : State} {a : Nat} {e : ErrCode} (h : s.unpackU a = .error e) : e = .range := by
  unfold State.unpackU at h
  split at h
  · cases h; rfl
  · simp only at h
    split at h
    · cases h; rfl
    · cases h

/-- A load of a packed unum that succeeds: it lies inside the buffer, and its length and bits are those the
tag bytes and the loaded bytes give (20_memory.md R55). -/
theorem State.unpackU_ok {s : State} {a : Nat} {x : Unpacked} (h : s.unpackU a = .ok x) :
    a + tagBytes s.env ≤ s.cfg.bufsz ∧ a + x.len ≤ s.cfg.bufsz ∧
    x.len = nbytes s.env (leNat (s.buf.readBytes a (tagBytes s.env))) ∧
    x.unum = slice (leNat (s.buf.readBytes a x.len)) 0
      (numbits s.env (leNat (s.buf.readBytes a (tagBytes s.env)))) := by
  unfold State.unpackU at h
  split at h
  · cases h
  · simp only at h
    split at h
    · cases h
    · cases h
      exact ⟨by omega, by simp only; omega, rfl, rfl⟩

/-- A load of a packed bound raises E_RANGE or E_FIELD only. -/
theorem State.unpackB_error {s : State} {a : Nat} {e : ErrCode} (h : s.unpackB a = .error e) :
    e = .range ∨ e = .field := by
  unfold State.unpackB at h
  split at h
  · cases h; exact .inl rfl
  · simp only at h
    split at h
    · cases h; exact .inr rfl
    · split at h
      · rename_i x hx; cases h; exact .inl (State.unpackU_error hx)
      · split at h
        · cases h
        · split at h
          · rename_i x hx; cases h; exact .inl (State.unpackU_error hx)
          · cases h

/-- A store either raises E_RANGE and writes nothing or writes all its bytes. -/
theorem State.storeBytes_cases (s : State) (a : Nat) (bs : List Byte) :
    (s.cfg.bufsz < a + bs.length ∧ s.storeBytes a bs = s.raise .range) ∨
    (a + bs.length ≤ s.cfg.bufsz ∧ s.storeBytes a bs = { s with buf := s.buf.writeBytes a bs }) := by
  unfold State.storeBytes
  split
  · exact .inl ⟨by assumption, rfl⟩
  · exact .inr ⟨by omega, rfl⟩

/-- The end of a load: an error raised, or the value given on. -/
theorem State.onLoad_cases {α : Type} (s : State) (x : Loaded α) (k : α → State) :
    (∃ e, x = .error e ∧ s.onLoad x k = s.raise e) ∨ (∃ v, x = .ok v ∧ s.onLoad x k = k v) := by
  cases x with
  | error e => exact .inl ⟨e, rfl, rfl⟩
  | ok v => exact .inr ⟨v, rfl, rfl⟩

/-! ### Endpoints in a register's widths -/

theorem expFits_iff (c : Config) (e : Int) :
    expFits c e = true ↔ -(2 ^ (c.gew - 1)) ≤ e ∧ e < 2 ^ (c.gew - 1) := by
  simp [expFits]

/-- A number within the widths is held as it is. -/
theorem fitDyad_of_fits {c : Config} {x : Dyad} (hm : x.man < 2 ^ c.gmw) (he : expFits c x.exp = true) :
    fitDyad c x = x := by
  simp [fitDyad, hm, he]

/-- A value within the widths is held as it is. -/
theorem fitGnum_of_storable {c : Config} {p : Gnum} (h : Storable c p) : fitGnum c p = p := by
  simp [fitGnum, fitDyad_of_fits h.1 h.2]

/-- Two's complement wrapping lands in the register's range. -/
theorem expFits_wrapExp (c : Config) (e : Int) : expFits c (wrapExp c e) = true := by
  rw [expFits_iff, wrapExp]
  obtain h | ⟨k, hk⟩ : c.gew = 0 ∨ ∃ k, c.gew = k + 1 := by
    cases c.gew with
    | zero => exact .inl rfl
    | succ k => exact .inr ⟨k, rfl⟩
  · simp [h]
  · have hp : (0 : Int) < 2 ^ (k + 1) := by positivity
    have h1 := Int.emod_nonneg (e + 2 ^ k) (ne_of_gt hp)
    have h2 := Int.emod_lt_of_pos (e + 2 ^ k) hp
    have h3 : (2 : Int) ^ (k + 1) = 2 ^ k + 2 ^ k := by ring
    rw [hk, Nat.add_sub_cancel]
    omega

/-- Wrapping changes nothing within the range. -/
theorem wrapExp_of_fits {c : Config} (h : 1 ≤ c.gew) {e : Int} (he : expFits c e = true) : wrapExp c e = e := by
  obtain ⟨k, hk⟩ := Nat.exists_eq_add_of_le' h
  rw [expFits_iff, hk, Nat.add_sub_cancel] at he
  rw [wrapExp, hk, Nat.add_sub_cancel]
  have h3 : (2 : Int) ^ (k + 1) = 2 ^ k + 2 ^ k := by ring
  rw [Int.emod_eq_of_lt (by omega) (by omega)]
  omega

/-- Writing a number with `k` trailing zeros in its significand changes no number. -/
theorem Dyad.toRat_shift (x : Dyad) (k : Nat) :
    Dyad.toRat { sg := x.sg, man := x.man * 2 ^ k, exp := x.exp - k } = x.toRat := by
  simp only [Dyad.toRat, Nat.cast_mul, Nat.cast_pow, Nat.cast_ofNat]
  rw [zpow_sub₀ (two_ne_zero), zpow_natCast]
  field_simp

/-- `k` trailing zeros add `k` to the position of the leading bit. -/
theorem log2_shift {m : Nat} (hm : m ≠ 0) (k : Nat) : (m * 2 ^ k).log2 = m.log2 + k := by
  have hlo : 2 ^ m.log2 ≤ m := Nat.log2_self_le hm
  have hhi : m < 2 ^ (m.log2 + 1) := Nat.lt_log2_self
  refine (Nat.log2_eq_iff (Nat.mul_ne_zero hm (by positivity))).2 ⟨?_, ?_⟩
  · rw [pow_add]; exact Nat.mul_le_mul_right _ hlo
  · rw [show m.log2 + k + 1 = m.log2 + 1 + k by omega, pow_add]
    exact Nat.mul_lt_mul_of_pos_right hhi (by positivity)

/-- `k` trailing zeros fit the widths exactly when `k` lies between the least and the greatest number. -/
theorem shift_fits_iff {c : Config} {x : Dyad} (hx : x.man ≠ 0) (k : Nat) :
    (x.man * 2 ^ k < 2 ^ c.gmw ∧ expFits c (x.exp - k) = true) ↔
      leastShift c x ≤ k ∧ (k : Int) ≤ mostShift c x := by
  have hm : x.man * 2 ^ k < 2 ^ c.gmw ↔ x.man.log2 + k < c.gmw := by
    rw [← Nat.log2_lt (Nat.mul_ne_zero hx (by positivity)), log2_shift hx]
  rw [expFits_iff, leastShift, mostShift, le_min_iff, hm]
  omega

/-- What holding a normalised number in the register's widths can do: nothing where it fits; else the same
number with trailing zeros; else, where no number of trailing zeros fits, a value within the widths. -/
theorem fitDyad_cases (c : Config) (x : Dyad) (h0 : x.man = 0 → x.exp = 0) :
    (x.man < 2 ^ c.gmw ∧ expFits c x.exp = true ∧ fitDyad c x = x) ∨
    (∃ k : Nat, x.man * 2 ^ k < 2 ^ c.gmw ∧ expFits c (x.exp - k) = true ∧
      fitDyad c x = { sg := x.sg, man := x.man * 2 ^ k, exp := x.exp - k }) ∨
    ((∀ k : Nat, ¬ (x.man * 2 ^ k < 2 ^ c.gmw ∧ expFits c (x.exp - k) = true)) ∧
      (fitDyad c x).sg = x.sg ∧ (fitDyad c x).man < 2 ^ c.gmw ∧ expFits c (fitDyad c x).exp = true) := by
  by_cases hfit : x.man < 2 ^ c.gmw ∧ expFits c x.exp = true
  · exact .inl ⟨hfit.1, hfit.2, fitDyad_of_fits hfit.1 hfit.2⟩
  have hx : x.man ≠ 0 := fun h => hfit ⟨by simp [h], by simp [h0 h, expFits_iff]⟩
  have hno : (expFits c x.exp && decide (x.man < 2 ^ c.gmw)) = false := by
    rw [Bool.eq_false_iff]
    simpa [and_comm] using hfit
  by_cases hk : 0 ≤ leastShift c x ∧ leastShift c x ≤ mostShift c x
  · set n := (mostShift c x - leastShift c x + 1).toNat with hn
    have hlt := Nat.mod_lt (Config.unfitShift x.man x.exp) (show 0 < n by omega)
    have hf := (shift_fits_iff (c := c) hx
      ((leastShift c x).toNat + Config.unfitShift x.man x.exp % n)).2 (by omega)
    exact .inr (.inl ⟨_, hf.1, hf.2, by simp [fitDyad, hno, hk, ← hn]⟩)
  · refine .inr (.inr ⟨fun k h => ?_, ?_⟩)
    · have h1 := (shift_fits_iff hx k).1 h
      have h2 := (shift_fits_iff (c := c) hx 0).not.1 (by simpa using hfit)
      simp only [Nat.cast_zero] at h2
      omega
    · simp only [fitDyad, hno, hk, Bool.false_eq_true, if_false]
      exact ⟨trivial, Nat.mod_lt _ (Nat.two_pow_pos _), expFits_wrapExp c _⟩

/-- A number that has an encoding in the register's widths is held exactly (10_state.md R27). -/
theorem fitDyad_toRat {c : Config} {x : Dyad} (h0 : x.man = 0 → x.exp = 0) {k : Nat}
    (hm : x.man * 2 ^ k < 2 ^ c.gmw) (he : expFits c (x.exp - k) = true) :
    (fitDyad c x).toRat = x.toRat := by
  obtain ⟨-, -, h⟩ | ⟨j, -, -, h⟩ | ⟨h, -⟩ := fitDyad_cases c x h0
  · rw [h]
  · rw [h, Dyad.toRat_shift]
  · exact absurd ⟨hm, he⟩ (h k)

/-- Whatever the free values are, what the unit writes of a normalised endpoint is within the widths, with the
sign and flags given. -/
theorem fitGnum_storable (c : Config) (p : Gnum) (h0 : p.val.man = 0 → p.val.exp = 0) :
    Storable c (fitGnum c p) ∧ (fitGnum c p).val.sg = p.val.sg ∧ (fitGnum c p).opn = p.opn ∧
      (fitGnum c p).inf = p.inf := by
  obtain ⟨hm, he, h⟩ | ⟨j, hm, he, h⟩ | ⟨-, hs, hm, he⟩ := fitDyad_cases c p.val h0
  · exact ⟨⟨by simpa [fitGnum, h] using hm, by simpa [fitGnum, h] using he⟩, by simp [fitGnum, h], rfl, rfl⟩
  · exact ⟨⟨by simpa [fitGnum, h] using hm, by simpa [fitGnum, h] using he⟩, by simp [fitGnum, h], rfl, rfl⟩
  · exact ⟨⟨hm, he⟩, hs, rfl, rfl⟩

/-- Removing trailing zeros does not make a significand 0. -/
theorem oddPart_ne_zero {m : Nat} (hm : m ≠ 0) : ∀ (k : Nat) (e : Int), (oddPart k m e).1 ≠ 0 := by
  intro k
  induction k generalizing m with
  | zero => exact fun _ => hm
  | succ k ih =>
    intro e
    unfold oddPart
    split
    · exact ih (by omega) _
    · exact hm

/-- A normalised zero has exponent 0. -/
theorem Dyad.norm_zero (x : Dyad) (h : x.norm.man = 0) : x.norm.exp = 0 := by
  unfold Dyad.norm at h ⊢
  split
  · rfl
  · rename_i hm
    rw [if_neg hm] at h
    exact absurd h (oddPart_ne_zero hm _ _)

/-- A normalised endpoint with value 0 has exponent 0. -/
theorem Gnum.norm_zero (p : Gnum) (h : p.norm.val.man = 0) : p.norm.val.exp = 0 := by
  unfold Gnum.norm at h ⊢
  split
  · split <;> rfl
  · rename_i hi
    rw [if_neg hi] at h
    exact Dyad.norm_zero _ h

/-- Both ends of what `G[i] <- v` writes are within the register's widths. -/
theorem fitGbnd_storable (c : Config) (g : Gbnd) :
    Storable c (fitGbnd c g.norm).l ∧ Storable c (fitGbnd c g.norm).r := by
  have hz : ∀ p : Gnum, p = nanG.l ∨ (∃ q : Gnum, p = q.norm) → p.val.man = 0 → p.val.exp = 0 := by
    rintro p (rfl | ⟨q, rfl⟩) h
    · rfl
    · exact q.norm_zero h
  unfold Gbnd.norm fitGbnd
  split
  · exact ⟨(fitGnum_storable c _ (hz _ (.inl rfl))).1, (fitGnum_storable c _ (hz _ (.inl rfl))).1⟩
  · exact ⟨(fitGnum_storable c _ (hz _ (.inr ⟨_, rfl⟩))).1, (fitGnum_storable c _ (hz _ (.inr ⟨_, rfl⟩))).1⟩

end Sys2Proof.Machine
end

