-- ==== Sys2Proof/Laws/PerInstr.lean ====
section
/-! SUPPORT. The opcode of every command's word, one lemma per constructor of Instr (30_encoding.md R76). -/

namespace Sys2Proof.Laws

/-- The opcode column of 30_encoding.md R76. -/
def opcodeOf : Instr → Nat
  | .nop => 0x00
  | .setenv _ _ => 0x01
  | .clrenv => 0x02
  | .clrerr => 0x03
  | .ldc _ _ => 0x08
  | .movu _ _ => 0x09
  | .movb _ _ => 0x0A
  | .movg _ _ => 0x0B
  | .mkb _ _ _ _ => 0x0C
  | .getl _ _ => 0x0D
  | .getr _ _ => 0x0E
  | .ldu _ _ => 0x10
  | .stu _ _ => 0x11
  | .ldb _ _ => 0x12
  | .stb _ _ => 0x13
  | .dtag _ => 0x20
  | .etag _ => 0x21
  | .promf _ _ => 0x22
  | .prome _ _ => 0x23
  | .demf _ _ => 0x24
  | .deme _ _ => 0x25
  | .promp _ _ => 0x26
  | .u2g _ _ => 0x30
  | .b2g _ _ => 0x31
  | .encl _ _ => 0x32
  | .encr _ _ => 0x33
  | .pack _ _ => 0x34
  | .clt _ _ => 0x40
  | .cgt _ _ => 0x41
  | .cneq _ _ => 0x42
  | .cseq _ _ => 0x43
  | .cidn _ _ => 0x44
  | .min _ _ _ => 0x48
  | .max _ _ _ => 0x49
  | .clipl _ _ _ => 0x4A
  | .cliph _ _ _ => 0x4B
  | .negg _ _ => 0x4C
  | .unify _ _ => 0x50

/-- The encoder writes the table's opcode. -/
def EncodeOpcode.Statement (i : Instr) : Prop := opOf (encode i) = opcodeOf i

theorem opOf_joinFields {op rd ra rb imm : Nat} (ho : op < 256) (hd : rd < 16) (ha : ra < 16) (hb : rb < 16)
    (hi : imm < 4096) : opOf (joinFields op rd ra rb imm) = op := by
  rw [opOf, fieldsOf_joinFields ho hd ha hb hi]

theorem EncodeOpcode.nop : EncodeOpcode.Statement .nop :=
  opOf_joinFields (by decide) (by omega) (by omega) (by omega) (by decide)
theorem EncodeOpcode.setenv (ess fss : BitVec 4) : EncodeOpcode.Statement (.setenv ess fss) := by
  have h1 := ess.isLt
  have h2 := fss.isLt
  exact opOf_joinFields (by decide) (by decide) (by decide) (by decide) (by omega)
theorem EncodeOpcode.clrenv : EncodeOpcode.Statement .clrenv :=
  opOf_joinFields (by decide) (by omega) (by omega) (by omega) (by decide)
theorem EncodeOpcode.clrerr : EncodeOpcode.Statement .clrerr :=
  opOf_joinFields (by decide) (by omega) (by omega) (by omega) (by decide)
theorem EncodeOpcode.ldc (rd : UReg) (id : Imm) : EncodeOpcode.Statement (.ldc rd id) :=
  opOf_joinFields (by decide) (by omega) (by omega) (by decide) id.isLt
theorem EncodeOpcode.movu (rd ra : UReg) : EncodeOpcode.Statement (.movu rd ra) :=
  opOf_joinFields (by decide) (by omega) (by omega) (by omega) (by decide)
theorem EncodeOpcode.movb (rd ra : BReg) : EncodeOpcode.Statement (.movb rd ra) :=
  opOf_joinFields (by decide) (by omega) (by omega) (by omega) (by decide)
theorem EncodeOpcode.movg (rd ra : GReg) : EncodeOpcode.Statement (.movg rd ra) :=
  opOf_joinFields (by decide) (by omega) (by omega) (by omega) (by decide)
theorem EncodeOpcode.mkb (rd : BReg) (ra rb : UReg) (pair : Bool) : EncodeOpcode.Statement (.mkb rd ra rb pair) := by
  cases pair <;> exact opOf_joinFields (by decide) (by omega) (by omega) (by omega) (by decide)
theorem EncodeOpcode.getl (rd : UReg) (ra : BReg) : EncodeOpcode.Statement (.getl rd ra) :=
  opOf_joinFields (by decide) (by omega) (by omega) (by omega) (by decide)
theorem EncodeOpcode.getr (rd : UReg) (ra : BReg) : EncodeOpcode.Statement (.getr rd ra) :=
  opOf_joinFields (by decide) (by omega) (by omega) (by omega) (by decide)
theorem EncodeOpcode.ldu (rd : UReg) (addr : Imm) : EncodeOpcode.Statement (.ldu rd addr) :=
  opOf_joinFields (by decide) (by omega) (by omega) (by decide) addr.isLt
theorem EncodeOpcode.stu (ra : UReg) (addr : Imm) : EncodeOpcode.Statement (.stu ra addr) :=
  opOf_joinFields (by decide) (by omega) (by omega) (by decide) addr.isLt
theorem EncodeOpcode.ldb (rd : BReg) (addr : Imm) : EncodeOpcode.Statement (.ldb rd addr) :=
  opOf_joinFields (by decide) (by omega) (by omega) (by decide) addr.isLt
theorem EncodeOpcode.stb (ra : BReg) (addr : Imm) : EncodeOpcode.Statement (.stb ra addr) :=
  opOf_joinFields (by decide) (by omega) (by omega) (by decide) addr.isLt
theorem EncodeOpcode.dtag (ra : UReg) : EncodeOpcode.Statement (.dtag ra) :=
  opOf_joinFields (by decide) (by omega) (by omega) (by omega) (by decide)
theorem EncodeOpcode.etag (rd : UReg) : EncodeOpcode.Statement (.etag rd) :=
  opOf_joinFields (by decide) (by omega) (by omega) (by omega) (by decide)
theorem EncodeOpcode.promf (rd ra : UReg) : EncodeOpcode.Statement (.promf rd ra) :=
  opOf_joinFields (by decide) (by omega) (by omega) (by omega) (by decide)
theorem EncodeOpcode.prome (rd ra : UReg) : EncodeOpcode.Statement (.prome rd ra) :=
  opOf_joinFields (by decide) (by omega) (by omega) (by omega) (by decide)
theorem EncodeOpcode.demf (rd ra : UReg) : EncodeOpcode.Statement (.demf rd ra) :=
  opOf_joinFields (by decide) (by omega) (by omega) (by omega) (by decide)
theorem EncodeOpcode.deme (rd ra : UReg) : EncodeOpcode.Statement (.deme rd ra) :=
  opOf_joinFields (by decide) (by omega) (by omega) (by omega) (by decide)
theorem EncodeOpcode.promp (rd ra : UReg) : EncodeOpcode.Statement (.promp rd ra) :=
  opOf_joinFields (by decide) (by omega) (by omega) (by omega) (by decide)
theorem EncodeOpcode.u2g (rd : GReg) (ra : UReg) : EncodeOpcode.Statement (.u2g rd ra) :=
  opOf_joinFields (by decide) (by omega) (by omega) (by omega) (by decide)
theorem EncodeOpcode.b2g (rd : GReg) (ra : BReg) : EncodeOpcode.Statement (.b2g rd ra) :=
  opOf_joinFields (by decide) (by omega) (by omega) (by omega) (by decide)
theorem EncodeOpcode.encl (rd : UReg) (ra : GReg) : EncodeOpcode.Statement (.encl rd ra) :=
  opOf_joinFields (by decide) (by omega) (by omega) (by omega) (by decide)
theorem EncodeOpcode.encr (rd : UReg) (ra : GReg) : EncodeOpcode.Statement (.encr rd ra) :=
  opOf_joinFields (by decide) (by omega) (by omega) (by omega) (by decide)
theorem EncodeOpcode.pack (rd : BReg) (ra : GReg) : EncodeOpcode.Statement (.pack rd ra) :=
  opOf_joinFields (by decide) (by omega) (by omega) (by omega) (by decide)
theorem EncodeOpcode.clt (ra rb : GReg) : EncodeOpcode.Statement (.clt ra rb) :=
  opOf_joinFields (by decide) (by omega) (by omega) (by omega) (by decide)
theorem EncodeOpcode.cgt (ra rb : GReg) : EncodeOpcode.Statement (.cgt ra rb) :=
  opOf_joinFields (by decide) (by omega) (by omega) (by omega) (by decide)
theorem EncodeOpcode.cneq (ra rb : GReg) : EncodeOpcode.Statement (.cneq ra rb) :=
  opOf_joinFields (by decide) (by omega) (by omega) (by omega) (by decide)
theorem EncodeOpcode.cseq (ra rb : GReg) : EncodeOpcode.Statement (.cseq ra rb) :=
  opOf_joinFields (by decide) (by omega) (by omega) (by omega) (by decide)
theorem EncodeOpcode.cidn (ra rb : GReg) : EncodeOpcode.Statement (.cidn ra rb) :=
  opOf_joinFields (by decide) (by omega) (by omega) (by omega) (by decide)
theorem EncodeOpcode.min (rd ra rb : GReg) : EncodeOpcode.Statement (.min rd ra rb) :=
  opOf_joinFields (by decide) (by omega) (by omega) (by omega) (by decide)
theorem EncodeOpcode.max (rd ra rb : GReg) : EncodeOpcode.Statement (.max rd ra rb) :=
  opOf_joinFields (by decide) (by omega) (by omega) (by omega) (by decide)
theorem EncodeOpcode.clipl (rd ra rb : GReg) : EncodeOpcode.Statement (.clipl rd ra rb) :=
  opOf_joinFields (by decide) (by omega) (by omega) (by omega) (by decide)
theorem EncodeOpcode.cliph (rd ra rb : GReg) : EncodeOpcode.Statement (.cliph rd ra rb) :=
  opOf_joinFields (by decide) (by omega) (by omega) (by omega) (by decide)
theorem EncodeOpcode.negg (rd ra : GReg) : EncodeOpcode.Statement (.negg rd ra) :=
  opOf_joinFields (by decide) (by omega) (by omega) (by omega) (by decide)
theorem EncodeOpcode.unify (rd ra : BReg) : EncodeOpcode.Statement (.unify rd ra) :=
  opOf_joinFields (by decide) (by omega) (by omega) (by omega) (by decide)

end Sys2Proof.Laws
end

