-- ==== Sys2Proof/Laws/State.lean ====
section
/-! SUPPORT. What each named update of State does to each field: one lemma per field per update. -/

namespace Sys2Proof.Machine

/-! ### setT -/

@[simp] theorem State.setT_cfg (s : State) (x : Bool) : (s.setT x).cfg = s.cfg := rfl
@[simp] theorem State.setT_env (s : State) (x : Bool) : (s.setT x).env = s.env := rfl
@[simp] theorem State.setT_status (s : State) (x : Bool) : (s.setT x).status = { s.status with t := x } := rfl
@[simp] theorem State.setT_errcode (s : State) (x : Bool) : (s.setT x).errcode = s.errcode := rfl
@[simp] theorem State.setT_cmd (s : State) (x : Bool) : (s.setT x).cmd = s.cmd := rfl
@[simp] theorem State.setT_tag (s : State) (x : Bool) : (s.setT x).tag = s.tag := rfl
@[simp] theorem State.setT_fexp (s : State) (x : Bool) : (s.setT x).fexp = s.fexp := rfl
@[simp] theorem State.setT_ffrac (s : State) (x : Bool) : (s.setT x).ffrac = s.ffrac := rfl
@[simp] theorem State.setT_uctl (s : State) (x : Bool) : (s.setT x).uctl = s.uctl := rfl
@[simp] theorem State.setT_u (s : State) (x : Bool) : (s.setT x).u = s.u := rfl
@[simp] theorem State.setT_b (s : State) (x : Bool) : (s.setT x).b = s.b := rfl
@[simp] theorem State.setT_g (s : State) (x : Bool) : (s.setT x).g = s.g := rfl
@[simp] theorem State.setT_buf (s : State) (x : Bool) : (s.setT x).buf = s.buf := rfl
@[simp] theorem State.setT_hostIn (s : State) (x : Bool) : (s.setT x).hostIn = s.hostIn := rfl
@[simp] theorem State.setT_hostOut (s : State) (x : Bool) : (s.setT x).hostOut = s.hostOut := rfl
@[simp] theorem State.setT_tick (s : State) (x : Bool) : (s.setT x).tick = s.tick := rfl

/-! ### setClip -/

@[simp] theorem State.setClip_cfg (s : State) (x : Bool) : (s.setClip x).cfg = s.cfg := rfl
@[simp] theorem State.setClip_env (s : State) (x : Bool) : (s.setClip x).env = s.env := rfl
@[simp] theorem State.setClip_status (s : State) (x : Bool) : (s.setClip x).status = { s.status with clip := x } := rfl
@[simp] theorem State.setClip_errcode (s : State) (x : Bool) : (s.setClip x).errcode = s.errcode := rfl
@[simp] theorem State.setClip_cmd (s : State) (x : Bool) : (s.setClip x).cmd = s.cmd := rfl
@[simp] theorem State.setClip_tag (s : State) (x : Bool) : (s.setClip x).tag = s.tag := rfl
@[simp] theorem State.setClip_fexp (s : State) (x : Bool) : (s.setClip x).fexp = s.fexp := rfl
@[simp] theorem State.setClip_ffrac (s : State) (x : Bool) : (s.setClip x).ffrac = s.ffrac := rfl
@[simp] theorem State.setClip_uctl (s : State) (x : Bool) : (s.setClip x).uctl = s.uctl := rfl
@[simp] theorem State.setClip_u (s : State) (x : Bool) : (s.setClip x).u = s.u := rfl
@[simp] theorem State.setClip_b (s : State) (x : Bool) : (s.setClip x).b = s.b := rfl
@[simp] theorem State.setClip_g (s : State) (x : Bool) : (s.setClip x).g = s.g := rfl
@[simp] theorem State.setClip_buf (s : State) (x : Bool) : (s.setClip x).buf = s.buf := rfl
@[simp] theorem State.setClip_hostIn (s : State) (x : Bool) : (s.setClip x).hostIn = s.hostIn := rfl
@[simp] theorem State.setClip_hostOut (s : State) (x : Bool) : (s.setClip x).hostOut = s.hostOut := rfl
@[simp] theorem State.setClip_tick (s : State) (x : Bool) : (s.setClip x).tick = s.tick := rfl

/-! ### setInex -/

@[simp] theorem State.setInex_cfg (s : State) (x : Bool) : (s.setInex x).cfg = s.cfg := rfl
@[simp] theorem State.setInex_env (s : State) (x : Bool) : (s.setInex x).env = s.env := rfl
@[simp] theorem State.setInex_status (s : State) (x : Bool) : (s.setInex x).status = { s.status with inex := x } := rfl
@[simp] theorem State.setInex_errcode (s : State) (x : Bool) : (s.setInex x).errcode = s.errcode := rfl
@[simp] theorem State.setInex_cmd (s : State) (x : Bool) : (s.setInex x).cmd = s.cmd := rfl
@[simp] theorem State.setInex_tag (s : State) (x : Bool) : (s.setInex x).tag = s.tag := rfl
@[simp] theorem State.setInex_fexp (s : State) (x : Bool) : (s.setInex x).fexp = s.fexp := rfl
@[simp] theorem State.setInex_ffrac (s : State) (x : Bool) : (s.setInex x).ffrac = s.ffrac := rfl
@[simp] theorem State.setInex_uctl (s : State) (x : Bool) : (s.setInex x).uctl = s.uctl := rfl
@[simp] theorem State.setInex_u (s : State) (x : Bool) : (s.setInex x).u = s.u := rfl
@[simp] theorem State.setInex_b (s : State) (x : Bool) : (s.setInex x).b = s.b := rfl
@[simp] theorem State.setInex_g (s : State) (x : Bool) : (s.setInex x).g = s.g := rfl
@[simp] theorem State.setInex_buf (s : State) (x : Bool) : (s.setInex x).buf = s.buf := rfl
@[simp] theorem State.setInex_hostIn (s : State) (x : Bool) : (s.setInex x).hostIn = s.hostIn := rfl
@[simp] theorem State.setInex_hostOut (s : State) (x : Bool) : (s.setInex x).hostOut = s.hostOut := rfl
@[simp] theorem State.setInex_tick (s : State) (x : Bool) : (s.setInex x).tick = s.tick := rfl

/-! ### setLim -/

@[simp] theorem State.setLim_cfg (s : State) (x : Bool) : (s.setLim x).cfg = s.cfg := rfl
@[simp] theorem State.setLim_env (s : State) (x : Bool) : (s.setLim x).env = s.env := rfl
@[simp] theorem State.setLim_status (s : State) (x : Bool) : (s.setLim x).status = { s.status with lim := x } := rfl
@[simp] theorem State.setLim_errcode (s : State) (x : Bool) : (s.setLim x).errcode = s.errcode := rfl
@[simp] theorem State.setLim_cmd (s : State) (x : Bool) : (s.setLim x).cmd = s.cmd := rfl
@[simp] theorem State.setLim_tag (s : State) (x : Bool) : (s.setLim x).tag = s.tag := rfl
@[simp] theorem State.setLim_fexp (s : State) (x : Bool) : (s.setLim x).fexp = s.fexp := rfl
@[simp] theorem State.setLim_ffrac (s : State) (x : Bool) : (s.setLim x).ffrac = s.ffrac := rfl
@[simp] theorem State.setLim_uctl (s : State) (x : Bool) : (s.setLim x).uctl = s.uctl := rfl
@[simp] theorem State.setLim_u (s : State) (x : Bool) : (s.setLim x).u = s.u := rfl
@[simp] theorem State.setLim_b (s : State) (x : Bool) : (s.setLim x).b = s.b := rfl
@[simp] theorem State.setLim_g (s : State) (x : Bool) : (s.setLim x).g = s.g := rfl
@[simp] theorem State.setLim_buf (s : State) (x : Bool) : (s.setLim x).buf = s.buf := rfl
@[simp] theorem State.setLim_hostIn (s : State) (x : Bool) : (s.setLim x).hostIn = s.hostIn := rfl
@[simp] theorem State.setLim_hostOut (s : State) (x : Bool) : (s.setLim x).hostOut = s.hostOut := rfl
@[simp] theorem State.setLim_tick (s : State) (x : Bool) : (s.setLim x).tick = s.tick := rfl

/-! ### setUni -/

@[simp] theorem State.setUni_cfg (s : State) (x : Bool) : (s.setUni x).cfg = s.cfg := rfl
@[simp] theorem State.setUni_env (s : State) (x : Bool) : (s.setUni x).env = s.env := rfl
@[simp] theorem State.setUni_status (s : State) (x : Bool) : (s.setUni x).status = { s.status with uni := x } := rfl
@[simp] theorem State.setUni_errcode (s : State) (x : Bool) : (s.setUni x).errcode = s.errcode := rfl
@[simp] theorem State.setUni_cmd (s : State) (x : Bool) : (s.setUni x).cmd = s.cmd := rfl
@[simp] theorem State.setUni_tag (s : State) (x : Bool) : (s.setUni x).tag = s.tag := rfl
@[simp] theorem State.setUni_fexp (s : State) (x : Bool) : (s.setUni x).fexp = s.fexp := rfl
@[simp] theorem State.setUni_ffrac (s : State) (x : Bool) : (s.setUni x).ffrac = s.ffrac := rfl
@[simp] theorem State.setUni_uctl (s : State) (x : Bool) : (s.setUni x).uctl = s.uctl := rfl
@[simp] theorem State.setUni_u (s : State) (x : Bool) : (s.setUni x).u = s.u := rfl
@[simp] theorem State.setUni_b (s : State) (x : Bool) : (s.setUni x).b = s.b := rfl
@[simp] theorem State.setUni_g (s : State) (x : Bool) : (s.setUni x).g = s.g := rfl
@[simp] theorem State.setUni_buf (s : State) (x : Bool) : (s.setUni x).buf = s.buf := rfl
@[simp] theorem State.setUni_hostIn (s : State) (x : Bool) : (s.setUni x).hostIn = s.hostIn := rfl
@[simp] theorem State.setUni_hostOut (s : State) (x : Bool) : (s.setUni x).hostOut = s.hostOut := rfl
@[simp] theorem State.setUni_tick (s : State) (x : Bool) : (s.setUni x).tick = s.tick := rfl

/-! ### setNanf -/

@[simp] theorem State.setNanf_cfg (s : State) (x : Bool) : (s.setNanf x).cfg = s.cfg := rfl
@[simp] theorem State.setNanf_env (s : State) (x : Bool) : (s.setNanf x).env = s.env := rfl
@[simp] theorem State.setNanf_status (s : State) (x : Bool) : (s.setNanf x).status = { s.status with nanf := x } := rfl
@[simp] theorem State.setNanf_errcode (s : State) (x : Bool) : (s.setNanf x).errcode = s.errcode := rfl
@[simp] theorem State.setNanf_cmd (s : State) (x : Bool) : (s.setNanf x).cmd = s.cmd := rfl
@[simp] theorem State.setNanf_tag (s : State) (x : Bool) : (s.setNanf x).tag = s.tag := rfl
@[simp] theorem State.setNanf_fexp (s : State) (x : Bool) : (s.setNanf x).fexp = s.fexp := rfl
@[simp] theorem State.setNanf_ffrac (s : State) (x : Bool) : (s.setNanf x).ffrac = s.ffrac := rfl
@[simp] theorem State.setNanf_uctl (s : State) (x : Bool) : (s.setNanf x).uctl = s.uctl := rfl
@[simp] theorem State.setNanf_u (s : State) (x : Bool) : (s.setNanf x).u = s.u := rfl
@[simp] theorem State.setNanf_b (s : State) (x : Bool) : (s.setNanf x).b = s.b := rfl
@[simp] theorem State.setNanf_g (s : State) (x : Bool) : (s.setNanf x).g = s.g := rfl
@[simp] theorem State.setNanf_buf (s : State) (x : Bool) : (s.setNanf x).buf = s.buf := rfl
@[simp] theorem State.setNanf_hostIn (s : State) (x : Bool) : (s.setNanf x).hostIn = s.hostIn := rfl
@[simp] theorem State.setNanf_hostOut (s : State) (x : Bool) : (s.setNanf x).hostOut = s.hostOut := rfl
@[simp] theorem State.setNanf_tick (s : State) (x : Bool) : (s.setNanf x).tick = s.tick := rfl

/-! ### raise -/

@[simp] theorem State.raise_cfg (s : State) (x : ErrCode) : (s.raise x).cfg = s.cfg := rfl
@[simp] theorem State.raise_env (s : State) (x : ErrCode) : (s.raise x).env = s.env := rfl
@[simp] theorem State.raise_status (s : State) (x : ErrCode) : (s.raise x).status = { s.status with err := true, busy := false } := rfl
@[simp] theorem State.raise_errcode (s : State) (x : ErrCode) : (s.raise x).errcode = x.code := rfl
@[simp] theorem State.raise_cmd (s : State) (x : ErrCode) : (s.raise x).cmd = s.cmd := rfl
@[simp] theorem State.raise_tag (s : State) (x : ErrCode) : (s.raise x).tag = s.tag := rfl
@[simp] theorem State.raise_fexp (s : State) (x : ErrCode) : (s.raise x).fexp = s.fexp := rfl
@[simp] theorem State.raise_ffrac (s : State) (x : ErrCode) : (s.raise x).ffrac = s.ffrac := rfl
@[simp] theorem State.raise_uctl (s : State) (x : ErrCode) : (s.raise x).uctl = s.uctl := rfl
@[simp] theorem State.raise_u (s : State) (x : ErrCode) : (s.raise x).u = s.u := rfl
@[simp] theorem State.raise_b (s : State) (x : ErrCode) : (s.raise x).b = s.b := rfl
@[simp] theorem State.raise_g (s : State) (x : ErrCode) : (s.raise x).g = s.g := rfl
@[simp] theorem State.raise_buf (s : State) (x : ErrCode) : (s.raise x).buf = s.buf := rfl
@[simp] theorem State.raise_hostIn (s : State) (x : ErrCode) : (s.raise x).hostIn = s.hostIn := rfl
@[simp] theorem State.raise_hostOut (s : State) (x : ErrCode) : (s.raise x).hostOut = s.hostOut := rfl
@[simp] theorem State.raise_tick (s : State) (x : ErrCode) : (s.raise x).tick = s.tick := rfl

/-! ### goFatal -/

@[simp] theorem State.goFatal_cfg (s : State) : (s.goFatal).cfg = s.cfg := rfl
@[simp] theorem State.goFatal_env (s : State) : (s.goFatal).env = s.env := rfl
@[simp] theorem State.goFatal_status (s : State) : (s.goFatal).status = { s.status with fatal := true, busy := false } := rfl
@[simp] theorem State.goFatal_errcode (s : State) : (s.goFatal).errcode = 0xFF := rfl
@[simp] theorem State.goFatal_cmd (s : State) : (s.goFatal).cmd = s.cmd := rfl
@[simp] theorem State.goFatal_tag (s : State) : (s.goFatal).tag = s.tag := rfl
@[simp] theorem State.goFatal_fexp (s : State) : (s.goFatal).fexp = s.fexp := rfl
@[simp] theorem State.goFatal_ffrac (s : State) : (s.goFatal).ffrac = s.ffrac := rfl
@[simp] theorem State.goFatal_uctl (s : State) : (s.goFatal).uctl = s.uctl := rfl
@[simp] theorem State.goFatal_u (s : State) : (s.goFatal).u = s.u := rfl
@[simp] theorem State.goFatal_b (s : State) : (s.goFatal).b = s.b := rfl
@[simp] theorem State.goFatal_g (s : State) : (s.goFatal).g = s.g := rfl
@[simp] theorem State.goFatal_buf (s : State) : (s.goFatal).buf = s.buf := rfl
@[simp] theorem State.goFatal_hostIn (s : State) : (s.goFatal).hostIn = s.hostIn := rfl
@[simp] theorem State.goFatal_hostOut (s : State) : (s.goFatal).hostOut = s.hostOut := rfl
@[simp] theorem State.goFatal_tick (s : State) : (s.goFatal).tick = s.tick := rfl

/-! ### clearError -/

@[simp] theorem State.clearError_cfg (s : State) : (s.clearError).cfg = s.cfg := rfl
@[simp] theorem State.clearError_env (s : State) : (s.clearError).env = s.env := rfl
@[simp] theorem State.clearError_status (s : State) : (s.clearError).status = { s.status with err := false, ovr := false } := rfl
@[simp] theorem State.clearError_errcode (s : State) : (s.clearError).errcode = 0 := rfl
@[simp] theorem State.clearError_cmd (s : State) : (s.clearError).cmd = s.cmd := rfl
@[simp] theorem State.clearError_tag (s : State) : (s.clearError).tag = s.tag := rfl
@[simp] theorem State.clearError_fexp (s : State) : (s.clearError).fexp = s.fexp := rfl
@[simp] theorem State.clearError_ffrac (s : State) : (s.clearError).ffrac = s.ffrac := rfl
@[simp] theorem State.clearError_uctl (s : State) : (s.clearError).uctl = s.uctl := rfl
@[simp] theorem State.clearError_u (s : State) : (s.clearError).u = s.u := rfl
@[simp] theorem State.clearError_b (s : State) : (s.clearError).b = s.b := rfl
@[simp] theorem State.clearError_g (s : State) : (s.clearError).g = s.g := rfl
@[simp] theorem State.clearError_buf (s : State) : (s.clearError).buf = s.buf := rfl
@[simp] theorem State.clearError_hostIn (s : State) : (s.clearError).hostIn = s.hostIn := rfl
@[simp] theorem State.clearError_hostOut (s : State) : (s.clearError).hostOut = s.hostOut := rfl
@[simp] theorem State.clearError_tick (s : State) : (s.clearError).tick = s.tick := rfl

/-! ### finish -/

@[simp] theorem State.finish_cfg (s : State) : (s.finish).cfg = s.cfg := rfl
@[simp] theorem State.finish_env (s : State) : (s.finish).env = s.env := rfl
@[simp] theorem State.finish_status (s : State) : (s.finish).status = { s.status with busy := false } := rfl
@[simp] theorem State.finish_errcode (s : State) : (s.finish).errcode = s.errcode := rfl
@[simp] theorem State.finish_cmd (s : State) : (s.finish).cmd = s.cmd := rfl
@[simp] theorem State.finish_tag (s : State) : (s.finish).tag = s.tag := rfl
@[simp] theorem State.finish_fexp (s : State) : (s.finish).fexp = s.fexp := rfl
@[simp] theorem State.finish_ffrac (s : State) : (s.finish).ffrac = s.ffrac := rfl
@[simp] theorem State.finish_uctl (s : State) : (s.finish).uctl = s.uctl := rfl
@[simp] theorem State.finish_u (s : State) : (s.finish).u = s.u := rfl
@[simp] theorem State.finish_b (s : State) : (s.finish).b = s.b := rfl
@[simp] theorem State.finish_g (s : State) : (s.finish).g = s.g := rfl
@[simp] theorem State.finish_buf (s : State) : (s.finish).buf = s.buf := rfl
@[simp] theorem State.finish_hostIn (s : State) : (s.finish).hostIn = s.hostIn := rfl
@[simp] theorem State.finish_hostOut (s : State) : (s.finish).hostOut = s.hostOut := rfl
@[simp] theorem State.finish_tick (s : State) : (s.finish).tick = s.tick := rfl

/-! ### writeU -/

@[simp] theorem State.writeU_cfg (s : State) (i : UReg) (v : Unum) : (s.writeU i v).cfg = s.cfg := rfl
@[simp] theorem State.writeU_env (s : State) (i : UReg) (v : Unum) : (s.writeU i v).env = s.env := rfl
@[simp] theorem State.writeU_status (s : State) (i : UReg) (v : Unum) : (s.writeU i v).status = s.status := rfl
@[simp] theorem State.writeU_errcode (s : State) (i : UReg) (v : Unum) : (s.writeU i v).errcode = s.errcode := rfl
@[simp] theorem State.writeU_cmd (s : State) (i : UReg) (v : Unum) : (s.writeU i v).cmd = s.cmd := rfl
@[simp] theorem State.writeU_tag (s : State) (i : UReg) (v : Unum) : (s.writeU i v).tag = s.tag := rfl
@[simp] theorem State.writeU_fexp (s : State) (i : UReg) (v : Unum) : (s.writeU i v).fexp = s.fexp := rfl
@[simp] theorem State.writeU_ffrac (s : State) (i : UReg) (v : Unum) : (s.writeU i v).ffrac = s.ffrac := rfl
@[simp] theorem State.writeU_uctl (s : State) (i : UReg) (v : Unum) : (s.writeU i v).uctl = s.uctl := rfl
@[simp] theorem State.writeU_u (s : State) (i : UReg) (v : Unum) : (s.writeU i v).u = s.u.set i (canon s.env v) := rfl
@[simp] theorem State.writeU_b (s : State) (i : UReg) (v : Unum) : (s.writeU i v).b = s.b := rfl
@[simp] theorem State.writeU_g (s : State) (i : UReg) (v : Unum) : (s.writeU i v).g = s.g := rfl
@[simp] theorem State.writeU_buf (s : State) (i : UReg) (v : Unum) : (s.writeU i v).buf = s.buf := rfl
@[simp] theorem State.writeU_hostIn (s : State) (i : UReg) (v : Unum) : (s.writeU i v).hostIn = s.hostIn := rfl
@[simp] theorem State.writeU_hostOut (s : State) (i : UReg) (v : Unum) : (s.writeU i v).hostOut = s.hostOut := rfl
@[simp] theorem State.writeU_tick (s : State) (i : UReg) (v : Unum) : (s.writeU i v).tick = s.tick := rfl

/-! ### writeB -/

@[simp] theorem State.writeB_cfg (s : State) (i : BReg) (v : Ubound) : (s.writeB i v).cfg = s.cfg := rfl
@[simp] theorem State.writeB_env (s : State) (i : BReg) (v : Ubound) : (s.writeB i v).env = s.env := rfl
@[simp] theorem State.writeB_status (s : State) (i : BReg) (v : Ubound) : (s.writeB i v).status = s.status := rfl
@[simp] theorem State.writeB_errcode (s : State) (i : BReg) (v : Ubound) : (s.writeB i v).errcode = s.errcode := rfl
@[simp] theorem State.writeB_cmd (s : State) (i : BReg) (v : Ubound) : (s.writeB i v).cmd = s.cmd := rfl
@[simp] theorem State.writeB_tag (s : State) (i : BReg) (v : Ubound) : (s.writeB i v).tag = s.tag := rfl
@[simp] theorem State.writeB_fexp (s : State) (i : BReg) (v : Ubound) : (s.writeB i v).fexp = s.fexp := rfl
@[simp] theorem State.writeB_ffrac (s : State) (i : BReg) (v : Ubound) : (s.writeB i v).ffrac = s.ffrac := rfl
@[simp] theorem State.writeB_uctl (s : State) (i : BReg) (v : Ubound) : (s.writeB i v).uctl = s.uctl := rfl
@[simp] theorem State.writeB_u (s : State) (i : BReg) (v : Ubound) : (s.writeB i v).u = s.u := rfl
@[simp] theorem State.writeB_b (s : State) (i : BReg) (v : Ubound) : (s.writeB i v).b = s.b.set i { p := v.p, l := canon s.env v.l, r := canon s.env v.r } := rfl
@[simp] theorem State.writeB_g (s : State) (i : BReg) (v : Ubound) : (s.writeB i v).g = s.g := rfl
@[simp] theorem State.writeB_buf (s : State) (i : BReg) (v : Ubound) : (s.writeB i v).buf = s.buf := rfl
@[simp] theorem State.writeB_hostIn (s : State) (i : BReg) (v : Ubound) : (s.writeB i v).hostIn = s.hostIn := rfl
@[simp] theorem State.writeB_hostOut (s : State) (i : BReg) (v : Ubound) : (s.writeB i v).hostOut = s.hostOut := rfl
@[simp] theorem State.writeB_tick (s : State) (i : BReg) (v : Ubound) : (s.writeB i v).tick = s.tick := rfl

/-! ### writeG -/

@[simp] theorem State.writeG_cfg (s : State) (i : GReg) (v : Gbnd) : (s.writeG i v).cfg = s.cfg := rfl
@[simp] theorem State.writeG_env (s : State) (i : GReg) (v : Gbnd) : (s.writeG i v).env = s.env := rfl
@[simp] theorem State.writeG_status (s : State) (i : GReg) (v : Gbnd) : (s.writeG i v).status = s.status := rfl
@[simp] theorem State.writeG_errcode (s : State) (i : GReg) (v : Gbnd) : (s.writeG i v).errcode = s.errcode := rfl
@[simp] theorem State.writeG_cmd (s : State) (i : GReg) (v : Gbnd) : (s.writeG i v).cmd = s.cmd := rfl
@[simp] theorem State.writeG_tag (s : State) (i : GReg) (v : Gbnd) : (s.writeG i v).tag = s.tag := rfl
@[simp] theorem State.writeG_fexp (s : State) (i : GReg) (v : Gbnd) : (s.writeG i v).fexp = s.fexp := rfl
@[simp] theorem State.writeG_ffrac (s : State) (i : GReg) (v : Gbnd) : (s.writeG i v).ffrac = s.ffrac := rfl
@[simp] theorem State.writeG_uctl (s : State) (i : GReg) (v : Gbnd) : (s.writeG i v).uctl = s.uctl := rfl
@[simp] theorem State.writeG_u (s : State) (i : GReg) (v : Gbnd) : (s.writeG i v).u = s.u := rfl
@[simp] theorem State.writeG_b (s : State) (i : GReg) (v : Gbnd) : (s.writeG i v).b = s.b := rfl
@[simp] theorem State.writeG_g (s : State) (i : GReg) (v : Gbnd) : (s.writeG i v).g = s.g.set i v := rfl
@[simp] theorem State.writeG_buf (s : State) (i : GReg) (v : Gbnd) : (s.writeG i v).buf = s.buf := rfl
@[simp] theorem State.writeG_hostIn (s : State) (i : GReg) (v : Gbnd) : (s.writeG i v).hostIn = s.hostIn := rfl
@[simp] theorem State.writeG_hostOut (s : State) (i : GReg) (v : Gbnd) : (s.writeG i v).hostOut = s.hostOut := rfl
@[simp] theorem State.writeG_tick (s : State) (i : GReg) (v : Gbnd) : (s.writeG i v).tick = s.tick := rfl

/-! ### storeG -/

@[simp] theorem State.storeG_cfg (s : State) (i : GReg) (v : Gbnd) : (s.storeG i v).cfg = s.cfg := rfl
@[simp] theorem State.storeG_env (s : State) (i : GReg) (v : Gbnd) : (s.storeG i v).env = s.env := rfl
@[simp] theorem State.storeG_status (s : State) (i : GReg) (v : Gbnd) : (s.storeG i v).status = s.status := rfl
@[simp] theorem State.storeG_errcode (s : State) (i : GReg) (v : Gbnd) : (s.storeG i v).errcode = s.errcode := rfl
@[simp] theorem State.storeG_cmd (s : State) (i : GReg) (v : Gbnd) : (s.storeG i v).cmd = s.cmd := rfl
@[simp] theorem State.storeG_tag (s : State) (i : GReg) (v : Gbnd) : (s.storeG i v).tag = s.tag := rfl
@[simp] theorem State.storeG_fexp (s : State) (i : GReg) (v : Gbnd) : (s.storeG i v).fexp = s.fexp := rfl
@[simp] theorem State.storeG_ffrac (s : State) (i : GReg) (v : Gbnd) : (s.storeG i v).ffrac = s.ffrac := rfl
@[simp] theorem State.storeG_uctl (s : State) (i : GReg) (v : Gbnd) : (s.storeG i v).uctl = s.uctl := rfl
@[simp] theorem State.storeG_u (s : State) (i : GReg) (v : Gbnd) : (s.storeG i v).u = s.u := rfl
@[simp] theorem State.storeG_b (s : State) (i : GReg) (v : Gbnd) : (s.storeG i v).b = s.b := rfl
@[simp] theorem State.storeG_g (s : State) (i : GReg) (v : Gbnd) : (s.storeG i v).g = s.g.set i (fitGbnd s.cfg v.norm) := rfl
@[simp] theorem State.storeG_buf (s : State) (i : GReg) (v : Gbnd) : (s.storeG i v).buf = s.buf := rfl
@[simp] theorem State.storeG_hostIn (s : State) (i : GReg) (v : Gbnd) : (s.storeG i v).hostIn = s.hostIn := rfl
@[simp] theorem State.storeG_hostOut (s : State) (i : GReg) (v : Gbnd) : (s.storeG i v).hostOut = s.hostOut := rfl
@[simp] theorem State.storeG_tick (s : State) (i : GReg) (v : Gbnd) : (s.storeG i v).tick = s.tick := rfl

/-! ### clearData -/

@[simp] theorem State.clearData_cfg (s : State) : (s.clearData).cfg = s.cfg := rfl
@[simp] theorem State.clearData_env (s : State) : (s.clearData).env = s.env := rfl
@[simp] theorem State.clearData_status (s : State) : (s.clearData).status = s.status.clearFlags := rfl
@[simp] theorem State.clearData_errcode (s : State) : (s.clearData).errcode = s.errcode := rfl
@[simp] theorem State.clearData_cmd (s : State) : (s.clearData).cmd = s.cmd := rfl
@[simp] theorem State.clearData_tag (s : State) : (s.clearData).tag = Tag.init := rfl
@[simp] theorem State.clearData_fexp (s : State) : (s.clearData).fexp = 0 := rfl
@[simp] theorem State.clearData_ffrac (s : State) : (s.clearData).ffrac = 0 := rfl
@[simp] theorem State.clearData_uctl (s : State) : (s.clearData).uctl = Uctl.init := rfl
@[simp] theorem State.clearData_u (s : State) : (s.clearData).u = Vector.replicate 8 0 := rfl
@[simp] theorem State.clearData_b (s : State) : (s.clearData).b = Vector.replicate 4 Ubound.init := rfl
@[simp] theorem State.clearData_g (s : State) : (s.clearData).g = Vector.replicate 4 Gbnd.init := rfl
@[simp] theorem State.clearData_buf (s : State) : (s.clearData).buf = s.buf := rfl
@[simp] theorem State.clearData_hostIn (s : State) : (s.clearData).hostIn = s.hostIn := rfl
@[simp] theorem State.clearData_hostOut (s : State) : (s.clearData).hostOut = s.hostOut := rfl
@[simp] theorem State.clearData_tick (s : State) : (s.clearData).tick = s.tick := rfl

/-! ### writeEnv -/

@[simp] theorem State.writeEnv_cfg (s : State) (E : Env) : (s.writeEnv E).cfg = s.cfg := rfl
@[simp] theorem State.writeEnv_env (s : State) (E : Env) : (s.writeEnv E).env = E := rfl
@[simp] theorem State.writeEnv_status (s : State) (E : Env) : (s.writeEnv E).status = s.status := rfl
@[simp] theorem State.writeEnv_errcode (s : State) (E : Env) : (s.writeEnv E).errcode = s.errcode := rfl
@[simp] theorem State.writeEnv_cmd (s : State) (E : Env) : (s.writeEnv E).cmd = s.cmd := rfl
@[simp] theorem State.writeEnv_tag (s : State) (E : Env) : (s.writeEnv E).tag = s.tag := rfl
@[simp] theorem State.writeEnv_fexp (s : State) (E : Env) : (s.writeEnv E).fexp = s.fexp := rfl
@[simp] theorem State.writeEnv_ffrac (s : State) (E : Env) : (s.writeEnv E).ffrac = s.ffrac := rfl
@[simp] theorem State.writeEnv_uctl (s : State) (E : Env) : (s.writeEnv E).uctl = s.uctl := rfl
@[simp] theorem State.writeEnv_u (s : State) (E : Env) : (s.writeEnv E).u = s.u := rfl
@[simp] theorem State.writeEnv_b (s : State) (E : Env) : (s.writeEnv E).b = s.b := rfl
@[simp] theorem State.writeEnv_g (s : State) (E : Env) : (s.writeEnv E).g = s.g := rfl
@[simp] theorem State.writeEnv_buf (s : State) (E : Env) : (s.writeEnv E).buf = s.buf := rfl
@[simp] theorem State.writeEnv_hostIn (s : State) (E : Env) : (s.writeEnv E).hostIn = s.hostIn := rfl
@[simp] theorem State.writeEnv_hostOut (s : State) (E : Env) : (s.writeEnv E).hostOut = s.hostOut := rfl
@[simp] theorem State.writeEnv_tick (s : State) (E : Env) : (s.writeEnv E).tick = s.tick := rfl

/-! ### writeUctl -/

@[simp] theorem State.writeUctl_cfg (s : State) (r : Unified) : (s.writeUctl r).cfg = s.cfg := rfl
@[simp] theorem State.writeUctl_env (s : State) (r : Unified) : (s.writeUctl r).env = s.env := rfl
@[simp] theorem State.writeUctl_status (s : State) (r : Unified) : (s.writeUctl r).status = s.status := rfl
@[simp] theorem State.writeUctl_errcode (s : State) (r : Unified) : (s.writeUctl r).errcode = s.errcode := rfl
@[simp] theorem State.writeUctl_cmd (s : State) (r : Unified) : (s.writeUctl r).cmd = s.cmd := rfl
@[simp] theorem State.writeUctl_tag (s : State) (r : Unified) : (s.writeUctl r).tag = s.tag := rfl
@[simp] theorem State.writeUctl_fexp (s : State) (r : Unified) : (s.writeUctl r).fexp = s.fexp := rfl
@[simp] theorem State.writeUctl_ffrac (s : State) (r : Unified) : (s.writeUctl r).ffrac = s.ffrac := rfl
@[simp] theorem State.writeUctl_uctl (s : State) (r : Unified) : (s.writeUctl r).uctl = r.uctl := rfl
@[simp] theorem State.writeUctl_u (s : State) (r : Unified) : (s.writeUctl r).u = s.u := rfl
@[simp] theorem State.writeUctl_b (s : State) (r : Unified) : (s.writeUctl r).b = s.b := rfl
@[simp] theorem State.writeUctl_g (s : State) (r : Unified) : (s.writeUctl r).g = s.g := rfl
@[simp] theorem State.writeUctl_buf (s : State) (r : Unified) : (s.writeUctl r).buf = s.buf := rfl
@[simp] theorem State.writeUctl_hostIn (s : State) (r : Unified) : (s.writeUctl r).hostIn = s.hostIn := rfl
@[simp] theorem State.writeUctl_hostOut (s : State) (r : Unified) : (s.writeUctl r).hostOut = s.hostOut := rfl
@[simp] theorem State.writeUctl_tick (s : State) (r : Unified) : (s.writeUctl r).tick = s.tick := rfl

/-! ### latch -/

@[simp] theorem State.latch_cfg (s : State) (w : Word) : (s.latch w).cfg = s.cfg := rfl
@[simp] theorem State.latch_env (s : State) (w : Word) : (s.latch w).env = s.env := rfl
@[simp] theorem State.latch_status (s : State) (w : Word) : (s.latch w).status = { s.status with busy := true } := rfl
@[simp] theorem State.latch_errcode (s : State) (w : Word) : (s.latch w).errcode = s.errcode := rfl
@[simp] theorem State.latch_cmd (s : State) (w : Word) : (s.latch w).cmd = w := rfl
@[simp] theorem State.latch_tag (s : State) (w : Word) : (s.latch w).tag = s.tag := rfl
@[simp] theorem State.latch_fexp (s : State) (w : Word) : (s.latch w).fexp = s.fexp := rfl
@[simp] theorem State.latch_ffrac (s : State) (w : Word) : (s.latch w).ffrac = s.ffrac := rfl
@[simp] theorem State.latch_uctl (s : State) (w : Word) : (s.latch w).uctl = s.uctl := rfl
@[simp] theorem State.latch_u (s : State) (w : Word) : (s.latch w).u = s.u := rfl
@[simp] theorem State.latch_b (s : State) (w : Word) : (s.latch w).b = s.b := rfl
@[simp] theorem State.latch_g (s : State) (w : Word) : (s.latch w).g = s.g := rfl
@[simp] theorem State.latch_buf (s : State) (w : Word) : (s.latch w).buf = s.buf := rfl
@[simp] theorem State.latch_hostIn (s : State) (w : Word) : (s.latch w).hostIn = s.hostIn := rfl
@[simp] theorem State.latch_hostOut (s : State) (w : Word) : (s.latch w).hostOut = s.hostOut := rfl
@[simp] theorem State.latch_tick (s : State) (w : Word) : (s.latch w).tick = s.tick := rfl

/-! ### hostRead -/

@[simp] theorem State.hostRead_cfg (s : State) (a : Nat) : (s.hostRead a).cfg = s.cfg := rfl
@[simp] theorem State.hostRead_env (s : State) (a : Nat) : (s.hostRead a).env = s.env := rfl
@[simp] theorem State.hostRead_status (s : State) (a : Nat) : (s.hostRead a).status = s.status := rfl
@[simp] theorem State.hostRead_errcode (s : State) (a : Nat) : (s.hostRead a).errcode = s.errcode := rfl
@[simp] theorem State.hostRead_cmd (s : State) (a : Nat) : (s.hostRead a).cmd = s.cmd := rfl
@[simp] theorem State.hostRead_tag (s : State) (a : Nat) : (s.hostRead a).tag = s.tag := rfl
@[simp] theorem State.hostRead_fexp (s : State) (a : Nat) : (s.hostRead a).fexp = s.fexp := rfl
@[simp] theorem State.hostRead_ffrac (s : State) (a : Nat) : (s.hostRead a).ffrac = s.ffrac := rfl
@[simp] theorem State.hostRead_uctl (s : State) (a : Nat) : (s.hostRead a).uctl = s.uctl := rfl
@[simp] theorem State.hostRead_u (s : State) (a : Nat) : (s.hostRead a).u = s.u := rfl
@[simp] theorem State.hostRead_b (s : State) (a : Nat) : (s.hostRead a).b = s.b := rfl
@[simp] theorem State.hostRead_g (s : State) (a : Nat) : (s.hostRead a).g = s.g := rfl
@[simp] theorem State.hostRead_buf (s : State) (a : Nat) : (s.hostRead a).buf = s.buf := rfl
@[simp] theorem State.hostRead_hostIn (s : State) (a : Nat) : (s.hostRead a).hostIn = s.hostIn := rfl
@[simp] theorem State.hostRead_hostOut (s : State) (a : Nat) : (s.hostRead a).hostOut = s.readReg (hostReg s.cfg a) :: s.hostOut := rfl
@[simp] theorem State.hostRead_tick (s : State) (a : Nat) : (s.hostRead a).tick = s.tick := rfl

/-! ### packUctl: UCTL alone -/

@[simp] theorem State.packUctl_cfg (s : State) (x : Option Unified) : (s.packUctl x).cfg = s.cfg := by
  cases x <;> rfl
@[simp] theorem State.packUctl_env (s : State) (x : Option Unified) : (s.packUctl x).env = s.env := by
  cases x <;> rfl
@[simp] theorem State.packUctl_status (s : State) (x : Option Unified) : (s.packUctl x).status = s.status := by
  cases x <;> rfl
@[simp] theorem State.packUctl_errcode (s : State) (x : Option Unified) : (s.packUctl x).errcode = s.errcode := by
  cases x <;> rfl
@[simp] theorem State.packUctl_cmd (s : State) (x : Option Unified) : (s.packUctl x).cmd = s.cmd := by
  cases x <;> rfl
@[simp] theorem State.packUctl_tag (s : State) (x : Option Unified) : (s.packUctl x).tag = s.tag := by
  cases x <;> rfl
@[simp] theorem State.packUctl_fexp (s : State) (x : Option Unified) : (s.packUctl x).fexp = s.fexp := by
  cases x <;> rfl
@[simp] theorem State.packUctl_ffrac (s : State) (x : Option Unified) : (s.packUctl x).ffrac = s.ffrac := by
  cases x <;> rfl
@[simp] theorem State.packUctl_u (s : State) (x : Option Unified) : (s.packUctl x).u = s.u := by
  cases x <;> rfl
@[simp] theorem State.packUctl_b (s : State) (x : Option Unified) : (s.packUctl x).b = s.b := by
  cases x <;> rfl
@[simp] theorem State.packUctl_g (s : State) (x : Option Unified) : (s.packUctl x).g = s.g := by
  cases x <;> rfl
@[simp] theorem State.packUctl_buf (s : State) (x : Option Unified) : (s.packUctl x).buf = s.buf := by
  cases x <;> rfl
@[simp] theorem State.packUctl_hostIn (s : State) (x : Option Unified) : (s.packUctl x).hostIn = s.hostIn := by
  cases x <;> rfl
@[simp] theorem State.packUctl_hostOut (s : State) (x : Option Unified) : (s.packUctl x).hostOut = s.hostOut := by
  cases x <;> rfl
@[simp] theorem State.packUctl_tick (s : State) (x : Option Unified) : (s.packUctl x).tick = s.tick := by
  cases x <;> rfl
@[simp] theorem State.packUctl_uctl (s : State) (x : Option Unified) :
    (s.packUctl x).uctl = match x with | none => s.uctl | some r => r.uctl := by
  cases x <;> rfl

/-! ### countTurn: the choice counter alone -/

@[simp] theorem State.countTurn_cfg (s : State) : s.countTurn.cfg = s.cfg := by
  unfold State.countTurn; split <;> rfl
@[simp] theorem State.countTurn_env (s : State) : s.countTurn.env = s.env := by
  unfold State.countTurn; split <;> rfl
@[simp] theorem State.countTurn_status (s : State) : s.countTurn.status = s.status := by
  unfold State.countTurn; split <;> rfl
@[simp] theorem State.countTurn_errcode (s : State) : s.countTurn.errcode = s.errcode := by
  unfold State.countTurn; split <;> rfl
@[simp] theorem State.countTurn_cmd (s : State) : s.countTurn.cmd = s.cmd := by
  unfold State.countTurn; split <;> rfl
@[simp] theorem State.countTurn_tag (s : State) : s.countTurn.tag = s.tag := by
  unfold State.countTurn; split <;> rfl
@[simp] theorem State.countTurn_fexp (s : State) : s.countTurn.fexp = s.fexp := by
  unfold State.countTurn; split <;> rfl
@[simp] theorem State.countTurn_ffrac (s : State) : s.countTurn.ffrac = s.ffrac := by
  unfold State.countTurn; split <;> rfl
@[simp] theorem State.countTurn_uctl (s : State) : s.countTurn.uctl = s.uctl := by
  unfold State.countTurn; split <;> rfl
@[simp] theorem State.countTurn_u (s : State) : s.countTurn.u = s.u := by
  unfold State.countTurn; split <;> rfl
@[simp] theorem State.countTurn_b (s : State) : s.countTurn.b = s.b := by
  unfold State.countTurn; split <;> rfl
@[simp] theorem State.countTurn_g (s : State) : s.countTurn.g = s.g := by
  unfold State.countTurn; split <;> rfl
@[simp] theorem State.countTurn_buf (s : State) : s.countTurn.buf = s.buf := by
  unfold State.countTurn; split <;> rfl
@[simp] theorem State.countTurn_hostIn (s : State) : s.countTurn.hostIn = s.hostIn := by
  unfold State.countTurn; split <;> rfl
@[simp] theorem State.countTurn_hostOut (s : State) : s.countTurn.hostOut = s.hostOut := by
  unfold State.countTurn; split <;> rfl
@[simp] theorem State.countTurn_tick (s : State) :
    s.countTurn.tick = if s.contested then s.tick + 1 else s.tick := by
  unfold State.countTurn; split <;> rfl

/-! ### Register reads after register writes -/

@[simp] theorem State.readU_writeU (s : State) (i j : UReg) (v : Unum) :
    (s.writeU i v).readU j = if i = j then canon s.env v else s.readU j := by
  simp only [State.readU, State.writeU_u, Fin.getElem_fin, Vector.getElem_set, Fin.ext_iff]

@[simp] theorem State.readB_writeB (s : State) (i j : BReg) (v : Ubound) :
    (s.writeB i v).readB j =
      if i = j then { p := v.p, l := canon s.env v.l, r := canon s.env v.r } else s.readB j := by
  simp only [State.readB, State.writeB_b, Fin.getElem_fin, Vector.getElem_set, Fin.ext_iff]

@[simp] theorem State.readG_writeG (s : State) (i j : GReg) (v : Gbnd) :
    (s.writeG i v).readG j = if i = j then v else s.readG j := by
  simp only [State.readG, State.writeG_g, Fin.getElem_fin, Vector.getElem_set, Fin.ext_iff]

end Sys2Proof.Machine
end

