-- ==== Sys2Proof/Laws/Step.lean ====
section
/-! SUPPORT. Who moves, and what the counter of open choices leaves alone. -/

namespace Sys2Proof.Machine

@[simp] theorem State.countTurn_drops (s : State) : s.countTurn.drops = s.drops := by
  simp [State.drops]

/-! ### Turns -/

theorem contested_busy {s : State} (h : s.contested = true) : s.status.busy = true := by
  unfold State.contested at h
  split at h <;> simp_all

/-- The unit moves only with a command in flight. -/
theorem busy_of_turn_unit {s : State} (h : s.turn = .unit) : s.status.busy = true := by
  unfold State.turn at h
  split at h
  · exact contested_busy (by assumption)
  · split at h
    · assumption
    · split at h <;> cases h

theorem step_of_turn_unit {s : State} (h : s.turn = .unit) : step s = unitStep s.countTurn := by
  unfold step; rw [h]

theorem step_of_turn_host {s : State} (h : s.turn = .host) : step s = .next s.countTurn.hostStep := by
  unfold step; rw [h]

theorem step_of_turn_idle {s : State} (h : s.turn = .idle) : step s = .next s := by
  unfold step; rw [h]

end Sys2Proof.Machine
end

