-- ==== Sys2Proof/Tests/Slice0.lean ====
section
/-! SUPPORT. Small tests: words of 95_test_vectors.md section 3 decoded, ill-formed commands refused, one step
of each command on the examples of its rule, and for every statement with hypotheses a concrete state and
operands that meet them. -/

namespace Sys2Proof.Tests
open Sys2Proof.Machine

set_option Elab.async false

/-! ### Decoding, family by family (words of 95_test_vectors.md section 3) -/

theorem test_decode_environment :
    decode 0x00000000#32 = .ok .nop ∧ decode 0x01000034#32 = .ok (.setenv 3 4) ∧
    decode 0x02000000#32 = .ok .clrenv ∧ decode 0x03000000#32 = .ok .clrerr := by decide +kernel

theorem test_decode_moves :
    decode 0x08200003#32 = .ok (.ldc 2 3) ∧ decode 0x09210000#32 = .ok (.movu 2 1) ∧
    decode 0x0A100000#32 = .ok (.movb 1 0) ∧ decode 0x0B300000#32 = .ok (.movg 3 0) ∧
    decode 0x0C012001#32 = .ok (.mkb 0 1 2 true) ∧ decode 0x0C370000#32 = .ok (.mkb 3 7 0 false) ∧
    decode 0x0D000000#32 = .ok (.getl 0 0) ∧ decode 0x0E530000#32 = .ok (.getr 5 3) := by decide +kernel

theorem test_decode_buffer :
    decode 0x10300010#32 = .ok (.ldu 3 0x10) ∧ decode 0x11000004#32 = .ok (.stu 0 4) ∧
    decode 0x12000000#32 = .ok (.ldb 0 0) ∧ decode 0x13010FFF#32 = .ok (.stb 1 0xFFF) := by decide +kernel

theorem test_decode_tag :
    decode 0x20000000#32 = .ok (.dtag 0) ∧ decode 0x21700000#32 = .ok (.etag 7) ∧
    decode 0x22100000#32 = .ok (.promf 1 0) ∧ decode 0x23100000#32 = .ok (.prome 1 0) ∧
    decode 0x24320000#32 = .ok (.demf 3 2) ∧ decode 0x25430000#32 = .ok (.deme 4 3) ∧
    decode 0x26010000#32 = .ok (.promp 0 1) := by decide +kernel

theorem test_decode_pack :
    decode 0x30010000#32 = .ok (.u2g 0 1) ∧ decode 0x31110000#32 = .ok (.b2g 1 1) ∧
    decode 0x32000000#32 = .ok (.encl 0 0) ∧ decode 0x33100000#32 = .ok (.encr 1 0) ∧
    decode 0x34220000#32 = .ok (.pack 2 2) := by decide +kernel

theorem test_decode_compare :
    decode 0x40001000#32 = .ok (.clt 0 1) ∧ decode 0x41002000#32 = .ok (.cgt 0 2) ∧
    decode 0x42012000#32 = .ok (.cneq 1 2) ∧ decode 0x43001000#32 = .ok (.cseq 0 1) ∧
    decode 0x44030000#32 = .ok (.cidn 3 0) ∧ decode 0x48301000#32 = .ok (.min 3 0 1) ∧
    decode 0x49302000#32 = .ok (.max 3 0 2) ∧ decode 0x4A201000#32 = .ok (.clipl 2 0 1) ∧
    decode 0x4B221000#32 = .ok (.cliph 2 2 1) ∧ decode 0x4C200000#32 = .ok (.negg 2 0) := by decide +kernel

theorem test_decode_unify : decode 0x50100000#32 = .ok (.unify 1 0) := by decide +kernel

theorem test_decode_refuses_reserved :
    decode 0x7F000000#32 = .error .reservedOpcode ∧ decode 0x04000000#32 = .error .reservedOpcode ∧
    decode 0x0F000000#32 = .error .reservedOpcode ∧ decode 0x51000000#32 = .error .reservedOpcode := by
  decide +kernel

theorem test_decode_refuses_fields :
    decode 0x09120001#32 = .error .immediate ∧ decode 0x09810000#32 = .error .registerIndex ∧
    decode 0x0A400000#32 = .error .registerIndex ∧ decode 0x00000001#32 = .error .immediate ∧
    decode 0x01000134#32 = .error .immediate ∧ decode 0x0C012003#32 = .error .immediate ∧
    decode 0x0C012000#32 = .error .unusedField ∧ decode 0x20100000#32 = .error .unusedField := by
  decide +kernel

/-- The smoke test of WellFormed: the one ill-formed shape is refused, its neighbours are not. -/
theorem test_wf_refuses_singleton_with_rb :
    Instr.wf (.mkb 0 1 2 false) = false ∧ Instr.wf (.mkb 0 1 0 false) = true ∧
    Instr.wf (.mkb 0 1 2 true) = true := by decide

theorem test_table_word : decodeTableWord 32 0x0C012001 = some (.mkb 0 1 2 true) := by decide +kernel

/-! ### One step of each command -/

/-- The environment (3, 4) of the spec's examples. -/
def env34 : Env := ⟨true, 3, 4⟩

/-- The state after reset with that environment established. -/
def at34 : State := { State.reset with env := env34 }

/-- What a test looks at in the next state. -/
def seen {α : Type} (a : Answer) (f : State → α) : Option α :=
  match a with
  | .next s => some (f s)
  | .fault _ => none
  | .refused _ => none

/-- `at34` with U0 and U1. -/
def withU (x y : Unum) : State := { at34 with u := (at34.u.set 0 x).set 1 y }

/-- `at34` with B0. -/
def withB (p : Bool) (l r : Unum) : State := { at34 with b := at34.b.set 0 ⟨p, l, r⟩ }

/-- The endpoint `k`, a natural. -/
def pt (k : Nat) (o : Bool) : Gnum := fin (Dyad.ofNat k) o

/-- `at34` with G0 and G1. -/
def withG (x y : Gbnd) : State := { at34 with g := (at34.g.set 0 x).set 1 y }

/-- `at34` with bytes at the start of the buffer. -/
def withBytes (bs : List Byte) : State := { at34 with buf := Memory.writeBytes [] 0 bs }

theorem test_nop : seen (exec .nop (withU 0x610 0)) (·.u) = some (withU 0x610 0).u := by decide +kernel

theorem test_setenv_clears_and_keeps_buf :
    seen (exec (.setenv 2 2) { withBytes [0x10] with fexp := 3 }) (fun t => (t.env, t.fexp, t.buf)) =
      some (⟨true, 2, 2⟩, 0, [(0, 0x10)]) := by decide +kernel

theorem test_setenv_fatal :
    seen (exec (.setenv 15 15) at34) (fun t => (t.status.fatal, t.status.err, t.errcode, t.env)) =
      some (true, false, 0xFF, env34) := by decide +kernel

theorem test_clrenv : seen (exec .clrenv (withU 0x610 0)) (fun t => (t.env.v, t.u)) =
    some (false, Vector.replicate 8 0) := by decide +kernel

theorem test_clrerr :
    seen (exec .clrerr (at34.raise .range)) (fun t => (t.status.err, t.errcode)) = some (false, 0) := by
  decide +kernel

/-- R94's example. -/
theorem test_ldc_posinf : seen (exec (.ldc 0 1) at34) (·.readU 0) = some 0xFFFFFF7F := by decide +kernel

theorem test_ldc_above_13 : seen (exec (.ldc 0 14) at34) (·.errcode) = some 0x03 := by decide +kernel

theorem test_movu : seen (exec (.movu 2 0) (withU 0x610 0)) (·.readU 2) = some 0x610 := by decide +kernel

theorem test_movb : seen (exec (.movb 1 0) (withB true 0x610 0xF20)) (·.readB 1) =
    some ⟨true, 0x610, 0xF20⟩ := by decide +kernel

/-- MOVG does not normalise. -/
theorem test_movg_bit_for_bit :
    seen (exec (.movg 3 0) (withG ⟨false, ⟨⟨false, 4, 0⟩, false, false⟩, ⟨⟨true, 0, 5⟩, true, false⟩⟩ Gbnd.init))
      (·.readG 3) = some ⟨false, ⟨⟨false, 4, 0⟩, false, false⟩, ⟨⟨true, 0, 5⟩, true, false⟩⟩ := by
  decide +kernel

theorem test_mkb_pair : seen (exec (.mkb 0 0 1 true) (withU 0x610 0xF20)) (·.readB 0) =
    some ⟨true, 0x610, 0xF20⟩ := by decide +kernel

theorem test_getl : seen (exec (.getl 0 0) (withB true 0x610 0xF20)) (·.readU 0) = some 0x610 := by
  decide +kernel

/-- R100's example: the right unum of a singleton is its only unum. -/
theorem test_getr_singleton : seen (exec (.getr 0 0) (withB false 0x610 0)) (·.readU 0) = some 0x610 := by
  decide +kernel

/-- R101's example. -/
theorem test_ldu : seen (exec (.ldu 0 0) (withBytes [0x10, 0x06])) (·.readU 0) = some 0x610 := by decide +kernel

theorem test_ldu_range : seen (exec (.ldu 0 64) at34) (·.errcode) = some 0x05 := by decide +kernel

/-- R102's example. -/
theorem test_stu : seen (exec (.stu 0 4) (withU 0x610 0)) (·.buf) = some [(4, 0x10), (5, 0x06)] := by
  decide +kernel

theorem test_stu_range : seen (exec (.stu 0 63) (withU 0x610 0)) (fun t => (t.errcode, t.buf)) =
    some (0x05, []) := by decide +kernel

/-- R103's example. -/
theorem test_ldb : seen (exec (.ldb 0 0) (withBytes [0x00, 0x10, 0x06])) (·.readB 0) =
    some ⟨false, 0x610, 0⟩ := by decide +kernel

theorem test_ldb_field : seen (exec (.ldb 0 0) (withBytes [0x02])) (·.errcode) = some 0x03 := by decide +kernel

/-- R104's example. -/
theorem test_stb : seen (exec (.stb 0 0) (withB true 0x610 0xF20)) (fun t => t.buf.map (·.2)) =
    some [0x01, 0x10, 0x06, 0x20, 0x0F] := by decide +kernel

/-- R128's example. -/
theorem test_dtag : seen (exec (.dtag 0) (withU 0x610 0)) (fun t => (t.tag.word, t.fexp, t.ffrac)) =
    some (0x00C02001, 3, 0) := by decide +kernel

/-- R129's example. -/
theorem test_etag :
    seen (exec (.etag 1) { at34 with tag := ⟨1, 2, false, false, 0⟩, fexp := 3 })
      (fun t => (t.readU 1, t.tag.nb)) = some (0x610, 12) := by decide +kernel

/-- The reset value of TAG is not a legal tag (R35). -/
theorem test_etag_field : seen (exec (.etag 1) at34) (·.errcode) = some 0x03 := by decide +kernel

theorem test_promf : seen (exec (.promf 1 0) (withU 0x610 0)) (·.readU 1) = some 0xC11 := by decide +kernel

theorem test_promf_inexact : seen (exec (.promf 1 0) (withU 0x690 0)) (fun t => (t.errcode, t.readU 1)) =
    some (0x04, 0) := by decide +kernel

theorem test_prome : seen (exec (.prome 1 0) (withU 0x610 0)) (·.readU 1) = some 0xA20 := by decide +kernel

theorem test_prome_subnormal : seen (exec (.prome 1 0) (withU 0x100 0)) (·.readU 1) = some 0x210 := by
  decide +kernel

theorem test_demf : seen (exec (.demf 1 0) (withU 0xD11 0)) (fun t => (t.readU 1, t.status.inex)) =
    some (0x690, true) := by decide +kernel

theorem test_deme_saturates : seen (exec (.deme 1 0) (withU 0x610 0))
    (fun t => (t.readU 1, t.status.inex, t.status.lim)) = some (0x380, true, false) := by decide +kernel

theorem test_deme_normal : seen (exec (.deme 1 0) (withU 0xA20 0)) (fun t => (t.readU 1, t.status.inex)) =
    some (0x610, false) := by decide +kernel

theorem test_promp : seen (exec (.promp 0 1) (withU 0x610 0x101)) (fun t => (t.readU 0, t.readU 1)) =
    some (0xC11, 0x211) := by decide +kernel

/-- R154's examples. -/
theorem test_u2g_point : seen (exec (.u2g 0 0) (withU 0x610 0)) (·.readG 0) =
    some ⟨false, ⟨⟨false, 1, 2⟩, false, false⟩, ⟨⟨false, 1, 2⟩, false, false⟩⟩ := by decide +kernel

theorem test_u2g_widest : seen (exec (.u2g 0 0) (withU 0x380 0)) (·.readG 0) =
    some ⟨false, ⟨⟨false, 3, 0⟩, true, false⟩, ⟨⟨false, 1, 0⟩, true, true⟩⟩ := by decide +kernel

/-- R155's example. -/
theorem test_b2g : seen (exec (.b2g 0 0) (withB true 0x7723 0xF20)) (·.readG 0) =
    some ⟨false, pt 23 false, pt 24 false⟩ := by decide +kernel

/-- R156's and R157's examples. -/
theorem test_encl_open : seen (exec (.encl 0 0) (withG ⟨false, pt 4 true, pt 6 true⟩ Gbnd.init))
    (·.readU 0) = some 0x690 := by decide +kernel

theorem test_encl_negative_open :
    seen (exec (.encl 0 0) (withG ⟨false, (pt 4 true).neg, pt 0 true⟩ Gbnd.init)) (·.readU 0) =
      some 0xD90 := by decide +kernel

theorem test_encr_open : seen (exec (.encr 0 0) (withG ⟨false, pt 4 true, pt 6 true⟩ Gbnd.init))
    (·.readU 0) = some 0x690 := by decide +kernel

/-- R158's examples. -/
theorem test_pack_open : seen (exec (.pack 0 0) (withG ⟨false, pt 23 true, pt 24 true⟩ Gbnd.init))
    (fun t => (t.readB 0, t.uctl.exit, t.status.uni)) = some (⟨false, 0x77A3, 0⟩, 7, true) := by decide +kernel

theorem test_pack_illformed : seen (exec (.pack 0 0) (withG ⟨false, pt 1 false, pt 1 true⟩ Gbnd.init))
    (fun t => (t.readB 0, t.status.nanf, t.uctl)) =
      some (⟨false, 0xFFFFFFFF, 0⟩, true, Uctl.init) := by decide +kernel

/-- R186 to R189: a = [1, 2), b = [2, 3]. -/
theorem test_clt : seen (exec (.clt 0 1) (withG ⟨false, pt 1 false, pt 2 true⟩ ⟨false, pt 2 false, pt 3 false⟩))
    (·.status.t) = some true := by decide +kernel

theorem test_cgt : seen (exec (.cgt 0 1) (withG ⟨false, pt 2 true, pt 3 false⟩ ⟨false, pt 1 false, pt 2 false⟩))
    (·.status.t) = some true := by decide +kernel

theorem test_cneq : seen (exec (.cneq 0 1) (withG ⟨false, pt 1 false, pt 2 true⟩ ⟨false, pt 2 false, pt 3 false⟩))
    (·.status.t) = some true := by decide +kernel

theorem test_cseq : seen (exec (.cseq 0 1) (withG ⟨false, pt 1 false, pt 2 false⟩ ⟨false, pt 2 false, pt 3 false⟩))
    (·.status.t) = some true := by decide +kernel

/-- R190: (1, 2) and [1, 2] are not identical; two encodings of one number are. -/
theorem test_cidn : seen (exec (.cidn 0 1) (withG ⟨false, pt 1 true, pt 2 true⟩ ⟨false, pt 1 false, pt 2 false⟩))
    (·.status.t) = some false := by decide +kernel

theorem test_cidn_two_encodings :
    seen (exec (.cidn 0 1) (withG ⟨false, pt 4 true, pt 6 true⟩
      ⟨false, ⟨⟨false, 4, 0⟩, true, false⟩, ⟨⟨false, 12, -1⟩, true, false⟩⟩)) (·.status.t) = some true := by
  decide +kernel

/-- R191 and R192: a = [1, 5), b = (1, 4]. -/
theorem test_min : seen (exec (.min 2 0 1) (withG ⟨false, pt 1 false, pt 5 true⟩ ⟨false, pt 1 true, pt 4 false⟩))
    (·.readG 2) = some ⟨false, pt 1 false, pt 4 false⟩ := by decide +kernel

theorem test_max : seen (exec (.max 2 0 1) (withG ⟨false, pt 1 false, pt 5 true⟩ ⟨false, pt 1 true, pt 4 false⟩))
    (·.readG 2) = some ⟨false, pt 1 true, pt 5 true⟩ := by decide +kernel

/-- R193: a = [1, 5], b = (2, 9). -/
theorem test_clipl : seen (exec (.clipl 2 0 1) (withG ⟨false, pt 1 false, pt 5 false⟩ ⟨false, pt 2 true, pt 9 true⟩))
    (fun t => (t.readG 2, t.status.clip)) = some (⟨false, pt 2 true, pt 5 false⟩, true) := by decide +kernel

/-- R194: a = [1, 5], b = (0, 5). -/
theorem test_cliph : seen (exec (.cliph 2 0 1) (withG ⟨false, pt 1 false, pt 5 false⟩ ⟨false, pt 0 true, pt 5 true⟩))
    (fun t => (t.readG 2, t.status.clip)) = some (⟨false, pt 1 false, pt 5 true⟩, true) := by decide +kernel

/-- R195: (−∞, −4] gives [4, +∞). -/
theorem test_negg : seen (exec (.negg 2 0) (withG ⟨false, ninf true, (pt 4 false).neg⟩ Gbnd.init)) (·.readG 2) =
    some ⟨false, pt 4 false, pinf true⟩ := by decide +kernel

/-- R226, run 2 (scenario 2 of the source). -/
theorem test_unify_search : seen (exec (.unify 1 0) (withB true 0x077199AF 0x077E66AF))
    (fun t => (t.readB 1, t.uctl)) = some (⟨false, 0x77A3, 0⟩, ⟨10, 0, 12, false⟩) := by decide +kernel

/-- R226, run 3 (scenario 6 of the source). -/
theorem test_unify_negative : seen (exec (.unify 1 0) (withB true 0x1FFFFFEFF 0xE10))
    (fun t => (t.readB 1, t.uctl)) = some (⟨false, 0x03FFFF8F, 0⟩, ⟨9, 7, 0, true⟩) := by decide +kernel

/-! ### The step and the host -/

/-- A command placed by withFetchWord runs at the next step and BUSY is 0 after it. -/
theorem test_step_runs_word :
    seen (step (State.reset.withFetchWord 32 0x01000034)) (fun t => (t.env, t.status.busy)) =
      some (env34, false) := by decide +kernel

theorem test_step_illegal :
    seen (step (State.reset.withFetchWord 32 0x7F000000)) (fun t => (t.status.err, t.errcode)) =
      some (true, 0x01) := by decide +kernel

/-- A host write of a non-canonical unum is made canonical. -/
theorem test_host_write_canonical : ((at34.hostWrite 0x100 0xF610).readU 0) = 0x610 := by decide +kernel

/-! ### Witnesses: for each statement with hypotheses, values that meet them, clause by clause -/

/-- A command word latched in a state with the environment (3, 4). -/
def latched (w : Word) : State := at34.latch w

/-- A legal build with an environment below both caps, so that every hypothesis of the statements on commands
holds at once. -/
theorem at34_inv : at34.Inv := by
  refine ⟨by decide +kernel, by decide, by decide, fun _ => ⟨by decide +kernel, by decide +kernel⟩,
    ⟨by decide +kernel, by decide +kernel⟩, by decide +kernel, ?_, ?_, by decide, by decide, by decide⟩
  · exact Nat.two_pow_pos _
  · exact Nat.two_pow_pos _

theorem not_legal_of_opcode (w : Word) (h : ∀ r ∈ opcodeTable, (fieldsOf w).op ≠ r.op) : ¬ LegalWord w :=
  fun ⟨r, hr, ho, _⟩ => h r hr ho

theorem witness_DecodeOfEncodeIsTheCommand :
    Instr.wf (.mkb 3 7 0 false) = true ∧ Instr.wf (.mkb 3 7 7 true) = true ∧
    Instr.wf (.stb 3 0xFFF) = true := by decide

theorem witness_EncodeOfDecodeIsTheWord : decode 0x13030FFF#32 = .ok (.stb 3 0xFFF) := by decide +kernel

theorem witness_LegalWordsAreTheOpcodeMap :
    (latched 0xFF000000#32).turn = .unit ∧ (latched 0xFF000000#32).drops = false ∧
    ¬ LegalWord (latched 0xFF000000#32).cmd :=
  ⟨by decide +kernel, by decide +kernel, not_legal_of_opcode _ (by decide +kernel)⟩

theorem witness_StepRunsTheDecodedCommand :
    ((latched 0#32).turn = .unit ∧ (latched 0#32).drops = false ∧ decode (latched 0#32).cmd = .ok .nop ∧
      exec .nop (latched 0#32).countTurn = .next (latched 0#32) ∧ (latched 0#32).contested = false) ∧
    State.contested { latched 0#32 with hostIn := [.read 0] } = true ∧
    (Instr.wf .nop = true ∧ at34.status.err = false ∧ at34.status.fatal = false ∧
      exec .nop (at34.withFetchWord 32 (encode .nop).toNat) =
        .next (at34.withFetchWord 32 (encode .nop).toNat)) :=
  ⟨⟨by decide +kernel, by decide +kernel, by decide +kernel, rfl, by decide +kernel⟩, by decide +kernel,
    by decide, by decide, by decide, rfl⟩

theorem witness_UnitStepIsTotalAndFollowsTheDecodeOrder :
    ((at34.goFatal.latch 0x03000000#32).status.fatal = true) ∧
    ((at34.raise .range).latch 0#32).status.err = true ∧ opOf ((at34.raise .range).latch 0#32).cmd ≠ 0x03 ∧
    (latched 0#32).status.fatal = false ∧ (latched 0#32).status.err = false ∧
    decode (latched 0x04000000#32).cmd = .error .reservedOpcode ∧
    decode (latched 0x09210000#32).cmd = .ok (.movu 2 1) ∧ State.reset.env.v = false := by
  decide +kernel

theorem witness_ErrorDropsEveryWordButClrerr :
    ((at34.raise .range).latch 0x02000000#32).turn = .unit ∧
    ((at34.raise .range).latch 0x02000000#32).status.err = true ∧
    opOf ((at34.raise .range).latch 0x02000000#32).cmd ≠ 0x03 ∧
    ((at34.raise .range).latch 0x04000000#32).turn = .unit ∧
    opOf ((at34.raise .range).latch 0x04000000#32).cmd ≠ 0x03 := by decide +kernel

theorem witness_FatalIsLeftOnlyByReset :
    at34.cfg.essCap < (5#4).toNat ∧ at34.cfg.fssCap < (12#4).toNat ∧
    (at34.goFatal.latch 0x03000000#32).turn = .unit ∧
    (at34.goFatal.latch 0x03000000#32).status.fatal = true ∧
    State.turn { at34.goFatal with hostIn := [.reset] } = .host ∧
    step at34.goFatal = .next at34.goFatal := ⟨by decide, by decide, by decide +kernel, by decide +kernel,
      by decide +kernel, rfl⟩

theorem witness_HostAccessIsWhollyBeforeOrAfterTheStep :
    (State.status { latched 0#32 with hostIn := [.read 1] }).busy = true ∧ HostAction.read 1 ≠ .wait ∧
    at34.status.busy = false ∧ at34.hostIn = [] := by decide +kernel

theorem witness_CommandHandshake :
    at34.status.busy = false ∧ (latched 0#32).status.busy = true ∧
    State.hostIn { latched 0#32 with hostIn := [.wait] } = .wait :: [] ∧
    (∃ s t : State, s.status.ovr = true ∧ step s = .next t ∧ t.status.ovr = false) := by
  refine ⟨by decide, by decide, rfl, { at34 with
    status := { at34.status with ovr := true }, hostIn := [.reset] }, _, rfl, rfl, rfl⟩

theorem witness_HostReadsTheRegisterMap :
    (0 < at34.cfg.bufsz ∧ 63 < at34.cfg.bufsz) ∧ 0x1000 + at34.cfg.bufsz ≤ 0x1040 ∧
    (0x006 < 0x007 ∧ 0x007 < 0x100) ∧ (0x108 ≤ 0x108 ∧ 0x108 < 0x110) ∧ (0x11C ≤ 0x11F ∧ 0x11F < 0x120) ∧
    (0x140 ≤ 0x140 ∧ 0x140 < 0x1000) := by decide

theorem witness_HostWritesOtherRegisters :
    63 < at34.cfg.bufsz ∧ Memory.wf at34.buf ∧ 1 ≤ at34.cfg.gew ∧ (0x006 < 0xFFF ∧ 0xFFF < 0x1000) ∧
    0x1000 + at34.cfg.bufsz ≤ 0x1040 := by decide

theorem witness_ResetGivesEveryStateItsValue :
    State.hostIn { at34 with hostIn := [.reset] } = .reset :: [] ∧ at34.status.busy = false ∧
    (latched 0#32).status.busy = true ∧
    (∃ s t : State, s.status.fatal = true ∧ step s = .next t ∧ t.status.fatal = false) := by
  refine ⟨rfl, by decide, by decide, { at34.goFatal with hostIn := [.reset] }, _, rfl, rfl, rfl⟩

theorem witness_StepKeepsTheInvariant : at34.Inv ∧ step at34 = .next at34 := ⟨at34_inv, rfl⟩

theorem witness_ResultFlagsChangeOnlyByTheirCommands :
    exec (.clt 0 1) at34 = .next (at34.setT (tLess (at34.readG 0) (at34.readG 1))) ∧
    Flag.nanf ∉ flagsWritten (.clt 0 1) := ⟨rfl, by decide⟩

theorem witness_CommandsChangeOnlyTheirDestinations :
    exec (.stu 0 4) (withU 0x610 0) =
      .next ((withU 0x610 0).storeBytes 4 (packU env34 ((withU 0x610 0).readU 0))) ∧
    mayWrite (.stu 0 4) (.regU 0) = false ∧ mayWrite (.stu 0 4) .tag = false ∧
    Memory.wf (withU 0x610 0).buf ∧ ¬ (withU 0x610 0).storedBytes (.stu 0 4) 3 ∧
    ¬ (withU 0x610 0).storedBytes (.stu 0 4) 6 := by
  refine ⟨rfl, by decide, by decide, by decide, ?_, ?_⟩
  · intro h; exact absurd h.1 (by decide)
  · intro h; exact absurd h.2 (by decide +kernel)

theorem witness_AnErrorWritesNothingElse :
    exec (.ldc 0 14) at34 = .next (at34.raise .field) ∧ at34.status.err = false ∧
    (at34.raise .field).status.err = true := ⟨rfl, by decide, by decide⟩

theorem witness_CommandsNeedAnEnvironment :
    State.reset.env.v = false ∧ Instr.unify 1 0 ≠ .nop ∧ (∀ e f, Instr.unify 1 0 ≠ .setenv e f) ∧
    Instr.unify 1 0 ≠ .clrenv ∧ Instr.unify 1 0 ≠ .clrerr := by
  refine ⟨by decide, by decide, by simp, by decide, by decide⟩

theorem witness_NopAndClrerr :
    ((at34.raise .range).latch 0#32).turn = .unit ∧ ((at34.raise .range).latch 0#32).status.err = true ∧
    ((at34.raise .range).latch 0x03000000#32).turn = .unit ∧
    ((at34.raise .range).latch 0x03000000#32).status.fatal = false ∧
    opOf ((at34.raise .range).latch 0x03000001#32).cmd = 0x03 ∧
    ((at34.raise .range).latch 0x03000001#32).cmd ≠ 0x03000000#32 := by decide +kernel

theorem witness_EnvironmentCommands :
    ((4#4).toNat ≤ at34.cfg.essCap ∧ (11#4).toNat ≤ at34.cfg.fssCap) ∧ at34.cfg.essCap < (5#4).toNat ∧
    at34.cfg.fssCap < (12#4).toNat := by decide

theorem witness_LdcLoadsTheDistinguishedPattern :
    at34.env.v = true ∧ (13#12).toNat ≤ 13 ∧ 13 < (14#12).toNat := by decide

theorem witness_MovesCopyWholeRegisters : at34.env.v = true ∧ at34.allCanonical :=
  ⟨by decide, by decide +kernel, by decide +kernel⟩

theorem witness_BoundFieldCommands :
    (1 : UReg) ≠ 0 ∧ (withB true 0x610 0xF20).env.v = true ∧ (withB true 0x610 0xF20).allCanonical ∧
    ((withB true 0x610 0xF20).readB 0).p = true ∧ ((withB true 0x610 0xF20).readB 1).p = false :=
  ⟨by decide, by decide, ⟨by decide +kernel, by decide +kernel⟩, by decide, by decide⟩

/-- A load that ends with the buffer's last byte, and one that passes it. -/
theorem witness_LoadUnum : at34.env.v = true ∧
    (62 + 1 ≤ at34.cfg.bufsz ∧ 62 + (numbits env34 (leNat (at34.buf.readBytes 62 1)) + 7) / 8 ≤ at34.cfg.bufsz) ∧
    at34.cfg.bufsz < 63 + (numbits env34 (leNat (at34.buf.readBytes 63 1)) + 7) / 8 ∧
    at34.cfg.bufsz < 64 + 1 := by decide +kernel

theorem witness_StoreUnum :
    (withU 0x610 0).env.v = true ∧ (withU 0x610 0).allCanonical ∧ Memory.wf (withU 0x610 0).buf ∧
    62 + (numbits env34 0x610 + 7) / 8 ≤ (withU 0x610 0).cfg.bufsz ∧
    (withU 0x610 0).cfg.bufsz < 63 + (numbits env34 0x610 + 7) / 8 :=
  ⟨by decide, ⟨by decide +kernel, by decide +kernel⟩, by decide, by decide +kernel, by decide +kernel⟩

theorem witness_LoadBound :
    at34.env.v = true ∧ at34.cfg.bufsz ≤ 64 ∧ 63 < at34.cfg.bufsz ∧
    1 < ((withBytes [2]).buf.read 0).toNat ∧ ((withBytes [1, 0x10, 0x06, 0x20, 0x0F]).buf.read 0).toNat = 1 ∧
    (withBytes [1, 0x10, 0x06, 0x20, 0x0F]).unpackU 1 = .ok ⟨0x610, 2⟩ ∧
    (withBytes [1, 0x10, 0x06, 0x20, 0x0F]).unpackU 3 = .ok ⟨0xF20, 2⟩ ∧
    ((withBytes []).buf.read 0).toNat = 0 ∧ (withBytes []).unpackU 1 = .ok ⟨0, 2⟩ ∧
    (withBytes []).unpackU 64 = .error .range := by
  refine ⟨by decide, by decide, by decide, by decide +kernel, by decide +kernel, rfl, rfl, by decide +kernel, rfl,
    rfl⟩

theorem witness_StoreBound :
    (withB true 0x610 0xF20).env.v = true ∧ (withB true 0x610 0xF20).allCanonical ∧
    Memory.wf (withB true 0x610 0xF20).buf ∧
    59 + 1 + (numbits env34 0x610 + 7) / 8 + (numbits env34 0xF20 + 7) / 8 ≤ 64 ∧
    64 < 60 + 1 + (numbits env34 0x610 + 7) / 8 + (numbits env34 0xF20 + 7) / 8 :=
  ⟨by decide, ⟨by decide +kernel, by decide +kernel⟩, by decide, by decide +kernel, by decide +kernel⟩

theorem witness_StoreThenLoadReturnsTheOperand :
    (withB true 0x610 0xF20).env.v = true ∧ (withB true 0x610 0xF20).allCanonical ∧
    Memory.wf (withB true 0x610 0xF20).buf ∧
    62 + nbytes env34 ((withB true 0x610 0xF20).readU 0) ≤ (withB true 0x610 0xF20).cfg.bufsz ∧
    59 + (packB env34 ((withB true 0x610 0xF20).readB 0)).length ≤ (withB true 0x610 0xF20).cfg.bufsz ∧
    ((withB true 0x610 0xF20).readB 1).p = false ∧ ((withB true 0x610 0xF20).readB 1).r = 0 :=
  ⟨by decide, ⟨by decide +kernel, by decide +kernel⟩, by decide, by decide +kernel, by decide +kernel, by decide,
    by decide⟩

theorem witness_DtagDecodesTheOperand : at34.env.v = true ∧ at34.cfg.wf ∧ at34.envWithinCaps :=
  ⟨by decide, by decide +kernel, by decide⟩

/-- The greatest tag of (3, 4) with all-ones payload is legal; the reset TAG is not. -/
theorem witness_EtagAssemblesAndUndoesDtag :
    at34.env.v = true ∧ at34.cfg.wf ∧ at34.envWithinCaps ∧ at34.allCanonical ∧
    State.tagLegal { at34 with tag := ⟨16, 8, true, true, 0⟩, fexp := 0xFF, ffrac := 0xFFFF } = true ∧
    at34.tagLegal = false :=
  ⟨by decide, by decide +kernel, by decide, ⟨by decide +kernel, by decide +kernel⟩, by decide +kernel,
    by decide +kernel⟩

/-- An exact unum of (2, 1), one at the maximum tag, and an inexact one. -/
theorem witness_PromfWidensTheFraction :
    (withU 0x610 0xFFFFFF7F).env.v = true ∧ (withU 0x610 0xFFFFFF7F).allCanonical ∧
    (ubitOf env34 0x610 = false ∧ fsOf env34 0x610 ≠ 16) ∧
    (ubitOf env34 0xFFFFFF7F = false ∧ fsOf env34 0xFFFFFF7F = 16) ∧
    (withU 0x690 0).allCanonical ∧ ubitOf env34 0x690 = true :=
  ⟨by decide, ⟨by decide +kernel, by decide +kernel⟩, by decide +kernel, by decide +kernel,
    ⟨by decide +kernel, by decide +kernel⟩, by decide +kernel⟩

/-- A normal, zero, a subnormal that becomes normal (k + D = fs) and one that stays subnormal. -/
theorem witness_PromeWidensTheExponent :
    (withU 0x610 0x101).env.v = true ∧ (withU 0x610 0x101).allCanonical ∧
    (ubitOf env34 0x610 = false ∧ esOf env34 0x610 ≠ 8 ∧ expoOf env34 0x610 ≠ 0) ∧
    (expoOf env34 0 = 0 ∧ fracOf env34 0 = 0) ∧
    (expoOf env34 0x100 = 0 ∧ fracOf env34 0x100 ≠ 0 ∧ fsOf env34 0x100 ≤ Nat.log2 (fracOf env34 0x100) + 1) ∧
    (expoOf env34 0x101 = 0 ∧ fracOf env34 0x101 ≠ 0 ∧ Nat.log2 (fracOf env34 0x101) + 1 < fsOf env34 0x101) ∧
    (ubitOf env34 0xFFFFFF7F = false ∧ esOf env34 0xFFFFFF7F = 8) ∧ ubitOf env34 0x690 = true :=
  ⟨by decide, ⟨by decide +kernel, by decide +kernel⟩, by decide +kernel, by decide +kernel, by decide +kernel,
    by decide +kernel, by decide +kernel, by decide +kernel⟩

theorem witness_DemfNarrowsTheFraction :
    (withU 0xD11 0x610).env.v = true ∧ (withU 0xD11 0x610).allCanonical ∧
    (fsOf env34 0xD11 ≠ 1 ∧ isSpecial env34 0xD11 = false) ∧ fsOf env34 0x610 = 1 ∧
    isSpecial env34 0xFFFFFF7F = true :=
  ⟨by decide, ⟨by decide +kernel, by decide +kernel⟩, by decide +kernel, by decide +kernel, by decide +kernel⟩

/-- The four arms at their boundaries: e = 0; e = Q; Q < e < 3Q; e = 3Q; and es = 1. -/
theorem witness_DemeNarrowsTheExponent :
    (withU 0x210 0xA20).env.v = true ∧ (withU 0x210 0xA20).allCanonical ∧
    (esOf env34 0x110 ≠ 1 ∧ isSpecial env34 0x110 = false ∧ expoOf env34 0x110 = 0) ∧
    (esOf env34 0x210 = 2 ∧ expoOf env34 0x210 = 1) ∧ (esOf env34 0xA20 = 3 ∧ expoOf env34 0xA20 = 5) ∧
    (esOf env34 0x610 = 2 ∧ expoOf env34 0x610 = 3) ∧ esOf env34 0x100 = 1 :=
  ⟨by decide, ⟨by decide +kernel, by decide +kernel⟩, by decide +kernel, by decide +kernel, by decide +kernel,
    by decide +kernel, by decide +kernel⟩

theorem witness_PrompBringsBothToOneTag :
    (Canonical env34 0x610 ∧ Canonical env34 0x101 ∧ ubitOf env34 0x610 = false ∧ ubitOf env34 0x101 = false ∧
      esOf env34 0x101 < esOf env34 0x610 ∧ fsOf env34 0x610 < fsOf env34 0x101) ∧
    (withU 0x610 0x101).env.v = true ∧ (withU 0x610 0x101).allCanonical ∧ ubitOf env34 0x690 = true :=
  ⟨by decide +kernel, by decide, ⟨by decide +kernel, by decide +kernel⟩, by decide +kernel⟩

theorem witness_PromotionKeepsTheValueAndIsUndone :
    Canonical env34 0x610 ∧ ubitOf env34 0x610 = false ∧ esOf env34 0x610 < 8 ∧ fsOf env34 0x610 < 16 := by
  decide +kernel

theorem witness_DemotionEnclosesTheOperand :
    Canonical env34 0xD91 ∧ isSpecial env34 0xD91 = false ∧ ubitOf env34 0xD91 = true := by decide +kernel

/-- An infinity, and unums that are none: 4, and the inexact (4, 6). -/
theorem witness_UnumValue :
    isInf env34 0xFFFFFF7F = true ∧ isSpecial env34 0x610 = false ∧ isSpecial env34 0x690 = false := by
  decide +kernel

/-- NaN, infinity, an exact unum, an inexact one of each sign, and a widest one. -/
theorem witness_UnumInterval :
    isNan env34 0xFFFFFFFF = true ∧ isInf env34 0xFFFFFF7F = true ∧ ubitOf env34 0x610 = false ∧
    (ubitOf env34 0x690 = true ∧ signOf env34 0x690 = false ∧ isWidest env34 0x690 = false) ∧
    (ubitOf env34 0xD90 = true ∧ signOf env34 0xD90 = true) ∧ isWidest env34 0x380 = true := by decide +kernel

theorem withB_inv : (withB true 0x7723 0xF20).Inv := by
  refine ⟨by decide +kernel, by decide, by decide, fun _ => ⟨by decide +kernel, by decide +kernel⟩,
    ⟨by decide +kernel, by decide +kernel⟩, by decide +kernel, ?_, ?_, by decide, by decide, by decide⟩
  · exact Nat.two_pow_pos _
  · exact Nat.two_pow_pos _

theorem witness_UnpackCommands :
    (withB true 0x7723 0xF20).Inv ∧ (withB true 0x7723 0xF20).env.v = true ∧
    (((withB true 0x7723 0xF20).readB 0).p = true ∧
      (u2g env34 ((withB true 0x7723 0xF20).readB 0).l).nan = false ∧
      (u2g env34 ((withB true 0x7723 0xF20).readB 0).r).nan = false) ∧
    ((withB true 0x7723 0xF20).readB 1).p = false ∧ (u2g env34 0xFFFFFFFF).nan = true :=
  ⟨withB_inv, by decide, by decide +kernel, by decide, by decide +kernel⟩

theorem witness_RealEncodingIsSound :
    ubitOf env34 (r2u env34 ⟨false, 4, 0⟩) = false ∧ ubitOf env34 (r2u env34 ⟨false, 131073, -17⟩) = true ∧
    isSpecial env34 0x610 = false ∧ Dyad.toRat ⟨false, 1, 2⟩ = (u2r env34 0x610).val.toRat := by
  refine ⟨by decide +kernel, by decide +kernel, by decide +kernel, ?_⟩
  have h : (u2r env34 0x610).val = ⟨false, 1, 2⟩ := by decide +kernel
  rw [h]

theorem witness_EndpointEncodeCommands :
    at34.env.v = true ∧ (at34.readG 0).nan = false ∧ ((withG nanG Gbnd.init).readG 0).nan = true := by decide

/-- An open infinity of each sign, a representable finite end, and one no unum of (0, 0) has. -/
theorem witness_EncodedEndpointIsAtOrOutside :
    ((pinf true).inf = true ∧ (pinf true).opn = true ∧ (pinf true).val.isNeg = false) ∧
    (ninf true).val.isNeg = true ∧ Representable env34 (pt 4 true) ∧
    ¬ (pt 4 true).inf = true ∧ ¬ Representable ⟨true, 0, 0⟩ (pt 5 false) := by
  refine ⟨by decide, by decide, ⟨0x610, by decide +kernel, by decide +kernel, ?_⟩, by decide, ?_⟩
  · have h : (u2r env34 0x610).ext = (pt 4 true).ext := by decide +kernel
    simp only [Gnum.toNum, h]
  · rintro ⟨u, hc, hu, h⟩
    have hn : u < 2 ^ 4 := lt_of_lt_of_le hc (Nat.pow_le_pow_right (by decide) (by
      have h1 : fsOf ⟨true, 0, 0⟩ u = 1 := by simp [fsOf, slice, Nat.mod_one]
      have h2 : esOf ⟨true, 0, 0⟩ u = 1 := by simp [esOf, slice, Nat.mod_one]
      simp only [numbits, h1, h2]; decide))
    have h5 : (pt 5 false).toNum = (((5 : ℚ) : WithTop ℚ) : ExtNum) := by
      have : (pt 5 false).ext = .fin ⟨false, 5, 0⟩ := by decide +kernel
      simp [Gnum.toNum, this, Ext.toNum, Dyad.toRat]
    rw [h5] at h
    have key : ∀ v : Fin 16, ubitOf ⟨true, 0, 0⟩ v = false →
        (u2r ⟨true, 0, 0⟩ v).ext ∈ [Ext.fin ⟨false, 0, 0⟩, .fin ⟨false, 1, 0⟩, .fin ⟨false, 1, 1⟩, .pinf,
          .fin ⟨true, 1, 0⟩, .fin ⟨true, 1, 1⟩, .ninf] := by decide +kernel
    have hk := key ⟨u, hn⟩ hu
    simp only [Gnum.toNum] at h
    simp only [List.mem_cons, List.not_mem_nil, or_false] at hk
    rcases hk with hk | hk | hk | hk | hk | hk | hk <;> rw [hk] at h <;>
      simp only [Ext.toNum, Dyad.toRat, WithBot.coe_inj, WithTop.coe_inj] at h <;> norm_num at h

theorem witness_PackCommand :
    at34.env.v = true ∧ ((withG nanG Gbnd.init).readG 0).nan = true ∧
    illformed ⟨false, pt 1 false, pt 1 true⟩ = true ∧
    Gbnd.Proper ⟨false, pt 4 false, pt 4 false⟩ ∧ Gbnd.Proper ⟨false, pt 23 true, pt 24 true⟩ ∧
    (encl env34 (pt 23 true)).1 ≠ (encr env34 (pt 24 true)).1 ∧
    (encl env34 (pt 4 false)).1 = (encr env34 (pt 4 false)).1 ∧
    (unify env34 ⟨true, (encl env34 (pt 1 false)).1, (encr env34 (pt 5 false)).1⟩).bound.p = true ∧
    (unify env34 ⟨true, 0x77A3, 0xEA0⟩).bound.p = false ∧
    identical (b2g env34 (unify env34 ⟨true, 0x77A3, 0xEA0⟩).bound) ⟨false, pt 23 true, pt 24 true⟩ = true := by
  decide +kernel

theorem witness_PackEnclosesTheInterval :
    Gbnd.Proper ⟨false, pt 4 false, pt 4 false⟩ ∧ ¬ Gbnd.Proper ⟨false, pt 1 false, pt 1 true⟩ ∧
    Representable env34 (pt 4 false) ∧ Gbnd.Holds ⟨false, pt 4 false, pt 4 false⟩ (pt 4 false).toNum := by
  refine ⟨by decide +kernel, by decide +kernel, ⟨0x610, by decide +kernel, by decide +kernel, ?_⟩, ?_⟩
  · have h : (u2r env34 0x610).ext = (pt 4 false).ext := by decide +kernel
    simp only [Gnum.toNum, h]
  · exact ⟨rfl, le_refl _, le_refl _⟩

theorem witness_PredicateCommands : at34.env.v = true := by decide

theorem witness_EndpointOrder :
    cmpV (pt 1 false) (pt 2 false) = .lt ∧ cmpV (pt 2 false) (pt 2 true) = .eq ∧
    cmpE (pt 2 true) .right (pt 2 false) .left = .lt ∧ cmpE (pt 2 false) .left (pt 3 true) .right = .lt := by
  decide +kernel

theorem witness_PredicatesMeanTheirSets :
    Gbnd.Proper ⟨false, pt 1 false, pt 2 true⟩ ∧ Gbnd.Proper ⟨false, pt 2 false, pt 2 false⟩ ∧
    Gbnd.Proper ⟨false, ninf false, pinf true⟩ := by decide +kernel

/-- NaN and number operands, and each arm of the two clips. -/
theorem witness_SelectorCommands :
    at34.env.v = true ∧ ((withG nanG Gbnd.init).readG 0).nan = true ∧ (at34.readG 0).nan = false ∧
    cmpE (pt 2 true) .left (pt 1 false) .left = .gt ∧ cmpE (pt 2 true) .left (pt 3 false) .left ≠ .gt ∧
    cmpE (pt 5 true) .right (pt 5 false) .right = .lt ∧ cmpE (pt 5 false) .right (pt 5 false) .right ≠ .lt ∧
    Storable at34.cfg (pt 5 true).norm ∧
    Storable at34.cfg ⟨⟨false, 2, 2 ^ 16 - 1⟩, true, false⟩ ∧
    ¬ Storable at34.cfg (Gnum.norm ⟨⟨false, 2, 2 ^ 16 - 1⟩, true, false⟩) := by decide +kernel

/-- The number `2 * 2^65535` has the normalised encoding `1 * 2^65536`, one past the 17 bits of the exponent; a
register of the build holds it exactly all the same (R27). -/
theorem test_fit_keeps_the_number :
    (fitDyad Config.build ⟨false, 1, 2 ^ 16⟩).toRat = Dyad.toRat ⟨false, 1, 2 ^ 16⟩ :=
  fitDyad_toRat (k := 1) (by decide) (by decide +kernel) (by decide +kernel)

theorem witness_MinAndMaxAreTheSetsOfLeastAndGreatest :
    Gbnd.Proper ⟨false, pt 1 false, pt 5 true⟩ ∧ Gbnd.Proper ⟨false, pt 1 true, pt 4 false⟩ ∧
    encloses ⟨false, pt 1 false, pt 5 true⟩ ⟨false, pt 1 true, pt 4 false⟩ = true := by decide +kernel

theorem witness_NegationMirrorsAndIsAnInvolution :
    Gbnd.nan ⟨false, ninf true, (pt 4 false).neg⟩ = false := by decide

/-- Two encodings of one endpoint, and an infinity with value 0. -/
theorem witness_NormalisationKeepsTheEndpoint :
    Gnum.toNum ⟨⟨false, 4, 0⟩, true, false⟩ = Gnum.toNum ⟨⟨false, 1, 2⟩, true, false⟩ ∧
    Gnum.inf ⟨⟨true, 0, 3⟩, true, true⟩ = true := by
  have h : Dyad.toRat ⟨false, 4, 0⟩ = Dyad.toRat ⟨false, 1, 2⟩ := by norm_num [Dyad.toRat]
  exact ⟨by simp only [Gnum.toNum, Gnum.ext, Ext.toNum, Bool.false_eq_true, if_false, h], rfl⟩

theorem witness_UnifyCommand :
    (withB true 0x77A3 0xEA0).env.v = true ∧ (withB true 0x77A3 0xEA0).allCanonical :=
  ⟨by decide, by decide +kernel, by decide +kernel⟩

theorem witness_UnifyEnclosesTheBound :
    CanonicalBound env34 ⟨true, 0x77A3, 0xEA0⟩ ∧ (b2g env34 ⟨true, 0x77A3, 0xEA0⟩).nan = false ∧
    CanonicalBound env34 ⟨true, 0xFFFFFFFF, 0⟩ ∧ (b2g env34 ⟨true, 0xFFFFFFFF, 0⟩).nan = true := by
  decide +kernel

/-- A bound for each exit. Those of ZERO and of the first NUDGE meet at an upper end of 1; the second FAIL is
the closed upper end 1/2, which the zero candidate misses (R226, example 6); OPENINF is also taken mirrored
(example 3). -/
theorem witness_UnifyExits :
    (unify env34 ⟨false, 0x610, 0⟩).exit = .single ∧ (unify env34 ⟨true, 0xFFFFFFFF, 0⟩).exit = .nanpass ∧
    (unify env34 ⟨true, 0xFFFFFF7F, 0xFFFFFF7F⟩).exit = .infpass ∧
    (unify env34 ⟨true, 0x610, 0x100⟩).exit = .illpass ∧ (unify env34 ⟨true, 0x610, 0xA20⟩).exit = .samept ∧
    (unify env34 ⟨true, 0x1FFFFFEFF, 0x700⟩).exit = .skip ∧
    (unify env34 ⟨true, 0x077199AF, 0x077E66AF⟩).exit = .search ∧
    (unify env34 ⟨true, 0x080, 0x090⟩).exit = .zero ∧ (unify env34 ⟨true, 0x080, 0x190⟩).exit = .nudge ∧
    (unify env34 ⟨true, 0x77A3, 0xEA0⟩).exit = .nudge ∧ (unify env34 ⟨true, 0xFFFFFEFF, 0x380⟩).exit = .satmax ∧
    (unify env34 ⟨true, 0x610, 0xFFFFFEFF⟩).exit = .openinf ∧
    (unify env34 ⟨true, 0x1FFFFFEFF, 0xE10⟩).exit = .openinf ∧
    (unify env34 ⟨true, 0x690, 0xF20⟩).exit = .fail ∧ (unify env34 ⟨true, 0x080, 0x110⟩).exit = .fail ∧
    (unify env34 ⟨true, 0x610, 0xFFFFFF7F⟩).exit = .closedinf ∧
    CanonicalBound env34 ⟨true, 0x080, 0x190⟩ ∧ CanonicalBound env34 ⟨true, 0x1FFFFFEFF, 0xE10⟩ ∧
    CanonicalBound env34 ⟨true, 0x1FFFFFEFF, 0x700⟩ := by decide +kernel

/-- `r = 1/2 = 2^(1 - 2^1)`, the boundary of `j = 1`. -/
theorem witness_ZeroCandidateIsTheGreatest :
    0 < Dyad.toRat ⟨false, 1, -1⟩ ∧ Dyad.toRat ⟨false, 1, -1⟩ < 1 := by
  norm_num [Dyad.toRat]

/-- Each case of R161 in the environment (1, 1): 0, above 6, below 1/4, an exact and an inexact subnormal, 1 as
a power of two, 3 as an exact normal, and 9/8, which no fraction of two bits holds. -/
theorem witness_RealEncodingByCases :
    r2u ⟨true, 1, 1⟩ ⟨false, 0, 0⟩ = 0 ∧ (6 : ℚ) < |Dyad.toRat ⟨false, 7, 0⟩| ∧
    (0 < |Dyad.toRat ⟨true, 1, -3⟩| ∧ |Dyad.toRat ⟨true, 1, -3⟩| < (1 / 4 : ℚ)) ∧
    ((1 / 4 : ℚ) ≤ |Dyad.toRat ⟨false, 1, -1⟩| ∧ |Dyad.toRat ⟨false, 1, -1⟩| < 1) ∧
    ((1 / 4 : ℚ) ≤ |Dyad.toRat ⟨false, 5, -4⟩| ∧ |Dyad.toRat ⟨false, 5, -4⟩| < 1) ∧
    ((1 : ℚ) ≤ |Dyad.toRat ⟨false, 9, -3⟩| ∧ |Dyad.toRat ⟨false, 9, -3⟩| ≤ 6) ∧
    ((1 : ℚ) ≤ |Dyad.toRat ⟨false, 3, 0⟩| ∧ |Dyad.toRat ⟨false, 3, 0⟩| ≤ 6) := by
  refine ⟨by decide +kernel, ?_, ?_, ?_, ?_, ?_, ?_⟩ <;> norm_num [Dyad.toRat, abs_of_pos, abs_of_neg]

end Sys2Proof.Tests
end

