-- ==== Sys2Proof/Proofs/EnvironmentCommands.lean ====
section
/-! PROOF. SETENV and CLRENV (40_env_move.md R91, R92): one equation per arm of each command, and O23. -/

namespace Sys2Proof.Machine

/-- SETENV with both operands within the caps (40_env_move.md R91). -/
theorem exec_setenv_within_caps {s : State} {ess fss : BitVec 4} (he : ess.toNat ≤ s.cfg.essCap)
    (hf : fss.toNat ≤ s.cfg.fssCap) :
    exec (.setenv ess fss) s = .next (s.clearData.writeEnv ⟨true, ess, fss⟩) := by
  have hcaps : ¬(s.cfg.essCap < ess.toNat ∨ s.cfg.fssCap < fss.toNat) := by omega
  exact if_neg hcaps

/-- SETENV with an operand beyond its cap (40_env_move.md R91, 60_exceptions.md R244). -/
theorem exec_setenv_beyond_cap {s : State} {ess fss : BitVec 4}
    (h : s.cfg.essCap < ess.toNat ∨ s.cfg.fssCap < fss.toNat) :
    exec (.setenv ess fss) s = .next s.goFatal :=
  if_pos h

/-- CLRENV has one arm (40_env_move.md R92). -/
theorem exec_clrenv (s : State) : exec .clrenv s = .next (s.clearData.writeEnv Env.init) := rfl

/-- MOVU is stopped by step 5 of the decode order when no environment stands (30_encoding.md R73). -/
theorem exec_movu_of_noEnv {s : State} (h : s.env.v = false) (rd ra : UReg) :
    exec (.movu rd ra) s = .next (s.raise .noEnv) :=
  State.needEnv_of_noEnv h _

/-- Settles O23. The opcodes are those of Laws/PerInstr; each next state is the named update of the arm taken,
written out field by field; the environment CLRENV leaves is the one MOVU finds missing. -/
theorem environmentCommands : Obligations.EnvironmentCommands := by
  unfold Obligations.EnvironmentCommands
  refine ⟨Laws.EncodeOpcode.setenv, Laws.EncodeOpcode.clrenv, by decide, fun s ess fss => ⟨?within, ?beyond⟩,
    exec_clrenv, fun s => ⟨_, exec_clrenv s, ?movu⟩, fun _ => ?sizes34, fun _ => ?sizes00⟩
  case within => exact exec_setenv_within_caps
  case beyond => exact exec_setenv_beyond_cap
  case movu =>
    have hv : (s.clearData.writeEnv Env.init).env.v = false := by simp [Env.init]
    exact exec_movu_of_noEnv hv 0 1
  case sizes34 => simp [Env.esmax, Env.fsmax, Env.utagsize, Env.maxubits]
  case sizes00 => simp [Env.esmax, Env.fsmax, Env.utagsize, Env.maxubits]

end Sys2Proof.Machine
end

