-- ==== Sys2Proof/Proofs/StoreUnum.lean ====
section
/-! PROOF. The operand buffer (20_memory.md R50 to R56) and STU (40_env_move.md R102): the bytes a store leaves
inside and outside its range, one equation per arm of the command, and O28. -/

namespace Sys2Proof.Machine

/-! ### The bytes a store leaves -/

/-- Byte `k` of the little-endian bytes of a number (20_memory.md R53). -/
theorem getElem?_leBytes {n k : Nat} (v : Nat) (hk : k < n) :
    (leBytes n v)[k]? = some (BitVec.ofNat 8 (v / 2 ^ (8 * k))) := by
  induction n generalizing v k with
  | zero => omega
  | succ n ih =>
    cases k with
    | zero => simp [leBytes]
    | succ k =>
      have hdiv : v / 2 ^ 8 / 2 ^ (8 * k) = v / 2 ^ (8 * (k + 1)) := by
        rw [Nat.div_div_eq_div_mul, ← Nat.pow_add, Nat.mul_succ, Nat.add_comm]
      rw [leBytes, List.getElem?_cons_succ, ih _ (by omega), hdiv]

/-- A byte inside the range of a write of several bytes. -/
theorem Memory.read_writeBytes_inside {m : Memory} (h : Memory.wf m) (a : Nat) {bs : List Byte} {k : Nat} {v : Byte}
    (hk : bs[k]? = some v) : (m.writeBytes a bs).read (a + k) = v := by
  rw [Memory.read_writeBytes h, if_pos (Nat.le_add_right a k), Nat.add_sub_cancel_left, hk, Option.getD_some]

/-- A byte outside the range of a write of several bytes. -/
theorem Memory.read_writeBytes_outside {m : Memory} (h : Memory.wf m) {a c : Nat} {bs : List Byte}
    (hc : c < a ∨ a + bs.length ≤ c) : (m.writeBytes a bs).read c = m.read c := by
  rw [Memory.read_writeBytes h]
  rcases hc with hbelow | habove
  · rw [if_neg (by omega)]
  · rw [if_pos (by omega), List.getElem?_eq_none (by omega), Option.getD_none]

/-- A byte of a stored unum: bits `8k+7..8k` of it (20_memory.md R56). -/
theorem Memory.read_writeBytes_packU {m : Memory} (h : Memory.wf m) (a : Nat) {E : Env} {u : Unum} {k : Nat}
    (hk : k < nbytes E u) : ((m.writeBytes a (packU E u)).read (a + k)).toNat = u / 2 ^ (8 * k) % 2 ^ 8 := by
  have hbyte : (packU E u)[k]? = some (BitVec.ofNat 8 (u / 2 ^ (8 * k))) := getElem?_leBytes u hk
  rw [Memory.read_writeBytes_inside h a hbyte, BitVec.toNat_ofNat]

/-! ### The two arms of STU -/

theorem State.storeBytes_of_fits {s : State} {a : Nat} {bs : List Byte} (h : a + bs.length ≤ s.cfg.bufsz) :
    s.storeBytes a bs = { s with buf := s.buf.writeBytes a bs } :=
  if_neg (Nat.not_lt.mpr h)

theorem State.storeBytes_of_passes_end {s : State} {a : Nat} {bs : List Byte} (h : s.cfg.bufsz < a + bs.length) :
    s.storeBytes a bs = s.raise .range :=
  if_pos h

theorem exec_stu {s : State} (hv : s.env.v = true) (ra : UReg) (addr : Imm) :
    exec (.stu ra addr) s = .next (s.storeBytes addr.toNat (packU s.env (s.readU ra))) :=
  State.needEnv_of_env hv _

/-- STU of a unum that ends within the buffer (40_env_move.md R102). -/
theorem exec_stu_of_fits {s : State} (hv : s.env.v = true) {ra : UReg} {addr : Imm}
    (h : addr.toNat + nbytes s.env (s.readU ra) ≤ s.cfg.bufsz) :
    exec (.stu ra addr) s =
      .next { s with buf := s.buf.writeBytes addr.toNat (packU s.env (s.readU ra)) } := by
  rw [exec_stu hv, State.storeBytes_of_fits (by rwa [length_packU])]

/-- STU of a unum that passes the buffer's end (20_memory.md R51). -/
theorem exec_stu_of_passes_end {s : State} (hv : s.env.v = true) {ra : UReg} {addr : Imm}
    (h : s.cfg.bufsz < addr.toNat + nbytes s.env (s.readU ra)) :
    exec (.stu ra addr) s = .next (s.raise .range) := by
  rw [exec_stu hv, State.storeBytes_of_passes_end (by rwa [length_packU])]

/-- Settles O28. The buffer left is the old one with the packed unum written at the address: a byte inside is
read by its place in the packed unum, a byte outside is not touched. -/
theorem storeUnum : Obligations.StoreUnum := by
  unfold Obligations.StoreUnum
  intro s ra addr hv _ hwf u a n
  refine ⟨Laws.EncodeOpcode.stu ra addr, fun hfits => ?fits, fun hpasses => ?passes⟩
  case fits =>
    refine ⟨s.buf.writeBytes a (packU s.env u), exec_stu_of_fits hv hfits, Memory.wf_writeBytes hwf a _,
      fun k hk => Memory.read_writeBytes_packU hwf a hk, fun c hc => Memory.read_writeBytes_outside hwf ?_⟩
    rw [length_packU]
    exact hc
  case passes => exact exec_stu_of_passes_end hv hpasses

end Sys2Proof.Machine
end

section
/-! PROOF. The decoder against the opcode map (30_encoding.md R71, R73 step 4, R74, R76): when each field check
lets a word through, and that the words that decode are those of the map. -/

namespace Sys2Proof

/-- Decoding answers a command. -/
def Decoded.Succeeds (d : Decoded) : Prop := ∃ i, d = .ok i

@[simp] theorem Decoded.succeeds_ok (i : Instr) : Decoded.Succeeds (.ok i) := ⟨i, rfl⟩

@[simp] theorem Decoded.not_succeeds_error (x : Illegal) : ¬ Decoded.Succeeds (.error x) :=
  fun ⟨_, h⟩ => by cases h

theorem Decoded.eq_error_of_not_succeeds {d : Decoded} (h : ¬ d.Succeeds) : ∃ x, d = .error x := by
  cases d with
  | error x => exact ⟨x, rfl⟩
  | ok i => exact absurd ⟨i, rfl⟩ h

/-! ### What each field check lets through -/

@[simp] theorem unused_succeeds {x : Nat} {k : Decoded} : (unused x k).Succeeds ↔ x = 0 ∧ k.Succeeds := by
  unfold unused
  split <;> simp_all

@[simp] theorem uReg_succeeds {x : Nat} {k : UReg → Decoded} :
    (uReg x k).Succeeds ↔ ∃ h : x < 8, (k ⟨x, h⟩).Succeeds := by
  unfold uReg
  split <;> simp_all

@[simp] theorem reg4_succeeds {x : Nat} {k : Fin 4 → Decoded} :
    (reg4 x k).Succeeds ↔ ∃ h : x < 4, (k ⟨x, h⟩).Succeeds := by
  unfold reg4
  split <;> simp_all

@[simp] theorem noImm_succeeds {f : Fields} {k : Decoded} : (noImm f k).Succeeds ↔ f.imm = 0 ∧ k.Succeeds := by
  unfold noImm
  split <;> simp_all

@[simp] theorem setenvOf_succeeds {f : Fields} : (setenvOf f).Succeeds ↔ slice f.imm 8 4 = 0 := by
  unfold setenvOf
  split <;> simp_all

/-- MKB's fields after `rd` and `ra`: a singleton has `rb = 0` (40_env_move.md R98). -/
@[simp] theorem mkbOf_succeeds {f : Fields} {rd : BReg} {ra : UReg} :
    (mkbOf f rd ra).Succeeds ↔ f.rb < 8 ∧ slice f.imm 1 11 = 0 ∧ (slice f.imm 0 1 = 0 → f.rb = 0) := by
  have hpair : slice f.imm 0 1 = 1 ↔ ¬ slice f.imm 0 1 = 0 := by unfold slice; omega
  rw [mkbOf, uReg_succeeds]
  by_cases himm : slice f.imm 1 11 = 0
  · by_cases hflag : slice f.imm 0 1 = 0 <;> simp [himm, hflag, hpair]
  · simp [himm]

/-! ### The rows of the map -/

namespace Machine

/-- The fields of a word are those a row of the map admits (30_encoding.md R71, R73 step 4, R74). -/
def OpcodeRow.Admits (r : OpcodeRow) (f : Fields) : Prop :=
  r.rd.Allows f.rd ∧ r.ra.Allows f.ra ∧ r.rb.Allows f.rb ∧ r.imm.Allows f.imm ∧
    (r.imm = .pairFlag → slice f.imm 0 1 = 0 → f.rb = 0)

theorem legalWord_iff {w : Word} :
    LegalWord w ↔ ∃ r ∈ opcodeTable, (fieldsOf w).op = r.op ∧ r.Admits (fieldsOf w) := Iff.rfl

/-- Under the opcode of a row the decoder checks exactly the row's fields. -/
theorem decodeFields_succeeds_iff_admits {r : OpcodeRow} (hr : r ∈ opcodeTable) {f : Fields} (ho : f.op = r.op) :
    (decodeFields f).Succeeds ↔ r.Admits f := by
  obtain ⟨op, rd, ra, rb, imm⟩ := f
  obtain rfl : op = r.op := ho
  fin_cases hr <;>
    simp only [decodeFields, unused_succeeds, uReg_succeeds, reg4_succeeds, noImm_succeeds, setenvOf_succeeds,
      mkbOf_succeeds, Decoded.succeeds_ok, exists_prop, OpcodeRow.Admits, FieldUse.Allows, ImmUse.Allows,
      reduceCtorEq, false_implies, forall_const, and_true]

/-- An opcode that decodes is a row's (30_encoding.md R76). -/
theorem op_mem_of_decodeFields_succeeds {f : Fields} (h : (decodeFields f).Succeeds) :
    f.op ∈ opcodeTable.map OpcodeRow.op := by
  unfold decodeFields at h
  split at h
  case h_39 => exact absurd h (Decoded.not_succeeds_error _)
  all_goals
    rename_i ho
    rw [ho]
    decide

/-- The decoder answers a command for the words of the map, and for no other (30_encoding.md R75, R76). -/
theorem decode_succeeds_iff_legalWord {w : Word} : (decode w).Succeeds ↔ LegalWord w := by
  rw [legalWord_iff]
  constructor
  · intro h
    obtain ⟨r, hr, hop⟩ := List.mem_map.mp (op_mem_of_decodeFields_succeeds h)
    exact ⟨r, hr, hop.symm, (decodeFields_succeeds_iff_admits hr hop.symm).mp h⟩
  · rintro ⟨r, hr, hop, hfields⟩
    exact (decodeFields_succeeds_iff_admits hr hop).mpr hfields

theorem decode_of_not_legalWord {w : Word} (h : ¬ LegalWord w) : ∃ x, decode w = .error x :=
  Decoded.eq_error_of_not_succeeds (mt decode_succeeds_iff_legalWord.mp h)

end Machine
end Sys2Proof
end

section
/-! PROOF. The unit's step along the decode order (30_encoding.md R73, 70_reset_and_hazards.md R263): one
equation per arm, that every command and every step answers a next state, O3 and O6. -/

namespace Sys2Proof.Machine

/-! ### The arms of the decode order -/

/-- Steps 1 and 2 of the decode order. -/
theorem State.drops_iff {s : State} :
    s.drops = true ↔ s.status.fatal = true ∨ s.status.err = true ∧ opOf s.cmd ≠ 0x03 := by
  simp [State.drops, opClrerr]

theorem State.drops_eq_false_iff {s : State} :
    s.drops = false ↔ s.status.fatal = false ∧ (s.status.err = false ∨ opOf s.cmd = 0x03) := by
  cases herr : s.status.err <;> simp [State.drops, opClrerr, herr]

theorem unitStep_of_drops {s : State} (h : s.drops = true) : unitStep s = .next s.finish := if_pos h

/-- Raising an error clears BUSY already (60_exceptions.md R241). -/
theorem State.finish_raise (s : State) (x : ErrCode) : (s.raise x).finish = s.raise x := rfl

/-- Steps 3 and 4 of the decode order. -/
theorem unitStep_of_decode_error {s : State} {x : Illegal} (h : s.drops = false) (hx : decode s.cmd = .error x) :
    unitStep s = .next (s.raise .illegal) := by
  simp [unitStep, h, hx, State.finish_raise]

/-- The command runs, then BUSY is cleared (70_reset_and_hazards.md R263). -/
theorem unitStep_of_exec {s t : State} {i : Instr} (h : s.drops = false) (hi : decode s.cmd = .ok i)
    (ht : exec i s = .next t) : unitStep s = .next t.finish := by
  simp [unitStep, h, hi, ht]

/-! ### Every command answers a next state -/

theorem State.needEnv_answers (s k : State) : ∃ t, s.needEnv k = .next t := by
  cases hv : s.env.v with
  | true => exact ⟨k, State.needEnv_of_env hv k⟩
  | false => exact ⟨_, State.needEnv_of_noEnv hv k⟩

/-- Step 5 of the decode order stands before every command but NOP, SETENV, CLRENV and CLRERR. -/
theorem exec_eq_needEnv {i : Instr} (s : State) (hnop : i ≠ .nop) (hsetenv : ∀ e f, i ≠ .setenv e f)
    (hclrenv : i ≠ .clrenv) (hclrerr : i ≠ .clrerr) : ∃ k, exec i s = s.needEnv k := by
  cases i with
  | nop => exact absurd rfl hnop
  | setenv e f => exact absurd rfl (hsetenv e f)
  | clrenv => exact absurd rfl hclrenv
  | clrerr => exact absurd rfl hclrerr
  | _ => exact ⟨_, rfl⟩

/-- Without an environment such a command raises E_NOENV (30_encoding.md R73). -/
theorem exec_of_noEnv {i : Instr} {s : State} (hv : s.env.v = false) (hnop : i ≠ .nop)
    (hsetenv : ∀ e f, i ≠ .setenv e f) (hclrenv : i ≠ .clrenv) (hclrerr : i ≠ .clrerr) :
    exec i s = .next (s.raise .noEnv) := by
  obtain ⟨k, hk⟩ := exec_eq_needEnv s hnop hsetenv hclrenv hclrerr
  rw [hk, State.needEnv_of_noEnv hv]

theorem exec_setenv_answers (ess fss : BitVec 4) (s : State) : ∃ t, exec (.setenv ess fss) s = .next t := by
  by_cases hcaps : s.cfg.essCap < ess.toNat ∨ s.cfg.fssCap < fss.toNat
  · exact ⟨_, exec_setenv_beyond_cap hcaps⟩
  · exact ⟨_, exec_setenv_within_caps (by omega) (by omega)⟩

theorem exec_answers (i : Instr) (s : State) : ∃ t, exec i s = .next t := by
  cases i with
  | nop => exact ⟨s, rfl⟩
  | setenv e f => exact exec_setenv_answers e f s
  | clrenv => exact ⟨_, exec_clrenv s⟩
  | clrerr => exact ⟨s.clearError, rfl⟩
  | _ => exact State.needEnv_answers s _

/-! ### Every step answers a next state -/

theorem unitStep_answers (s : State) : ∃ t, unitStep s = .next t := by
  cases hd : s.drops with
  | true => exact ⟨_, unitStep_of_drops hd⟩
  | false =>
    cases hi : decode s.cmd with
    | error x => exact ⟨_, unitStep_of_decode_error hd hi⟩
    | ok i =>
      obtain ⟨t, ht⟩ := exec_answers i s
      exact ⟨_, unitStep_of_exec hd hi ht⟩

theorem step_answers (s : State) : ∃ t, step s = .next t := by
  cases hturn : s.turn with
  | unit =>
    rw [step_of_turn_unit hturn]
    exact unitStep_answers s.countTurn
  | host => exact ⟨_, step_of_turn_host hturn⟩
  | idle => exact ⟨_, step_of_turn_idle hturn⟩

/-- A step of the unit on a word that is not legal raises E_ILLEGAL (30_encoding.md R74). -/
theorem step_of_not_legalWord {s : State} (hturn : s.turn = .unit) (hd : s.drops = false)
    (hw : ¬ LegalWord s.cmd) : step s = .next (s.countTurn.raise .illegal) := by
  obtain ⟨x, hx⟩ := decode_of_not_legalWord hw
  rw [step_of_turn_unit hturn]
  exact unitStep_of_decode_error (by rwa [State.countTurn_drops]) (by rwa [State.countTurn_cmd])

/-! ### The obligations -/

/-- Settles O3. Each row's checks are the decoder's under that row's opcode, and the error latched is the raised
E_ILLEGAL, with BUSY cleared. -/
theorem legalWordsAreTheOpcodeMap : Obligations.LegalWordsAreTheOpcodeMap := by
  unfold Obligations.LegalWordsAreTheOpcodeMap
  refine ⟨fun _ => decode_succeeds_iff_legalWord, by decide, fun s hturn hd hw => ?illegal⟩
  case illegal =>
    rw [step_of_not_legalWord hturn hd hw, State.raise, State.countTurn_status]
    rfl

/-- Settles O6. The statement's hypotheses are the arms of the decode order; step 5's E_NOENV is the one answer a
command that needs an environment can give without it. -/
theorem unitStepIsTotalAndFollowsTheDecodeOrder : Obligations.UnitStepIsTotalAndFollowsTheDecodeOrder := by
  unfold Obligations.UnitStepIsTotalAndFollowsTheDecodeOrder
  refine ⟨step_answers, fun s => ⟨fun hdrop => unitStep_of_drops (State.drops_iff.mpr hdrop),
    fun hfatal herr => ?runs⟩⟩
  case runs =>
    have hd : s.drops = false := State.drops_eq_false_iff.mpr ⟨hfatal, herr⟩
    refine ⟨fun x hx => unitStep_of_decode_error hd hx, fun i hi => ?decodes⟩
    obtain ⟨t, ht⟩ := exec_answers i s
    refine ⟨t, ht, unitStep_of_exec hd hi ht, fun hv hnop hsetenv hclrenv hclrerr => ?noEnv⟩
    rw [exec_of_noEnv hv hnop hsetenv hclrenv hclrerr] at ht
    cases ht
    rfl

end Sys2Proof.Machine
end

section
/-! PROOF. NOP and CLRERR (40_env_move.md R90, R93): the words the decoder takes for them, the step on each, and
O22. -/

namespace Sys2Proof.Machine

theorem exec_nop (s : State) : exec .nop s = .next s := rfl

theorem exec_clrerr (s : State) : exec .clrerr s = .next s.clearError := rfl

/-- CLRERR has one legal word (30_encoding.md R73 step 4, R76). -/
theorem eq_encode_clrerr_of_legalWord {w : Word} (hop : opOf w = 0x03) (hw : LegalWord w) :
    w = encode .clrerr := by
  have hrow : (⟨0x03, .none, .none, .none, .zero⟩ : OpcodeRow) ∈ opcodeTable := by decide
  obtain ⟨hrd, hra, hrb, himm, -⟩ :=
    (decodeFields_succeeds_iff_admits hrow hop).mp (decode_succeeds_iff_legalWord.mpr hw)
  simp only [FieldUse.Allows, ImmUse.Allows] at hrd hra hrb himm
  have hfields : joinFields 0x03 0 0 0 0 = w := by
    rw [← joinFields_fieldsOf w, hrd, hra, hrb, himm, ← hop, opOf]
  exact hfields.symm

/-! ### The step on a word of the two commands -/

/-- A step of the unit on a word it drops only ends the command (60_exceptions.md R243, R244). -/
theorem step_of_drops {s : State} (hturn : s.turn = .unit) (hd : s.drops = true) :
    step s = .next s.countTurn.finish := by
  rw [step_of_turn_unit hturn]
  exact unitStep_of_drops (by rwa [State.countTurn_drops])

/-- A step of the unit on a word that decodes. -/
theorem step_of_exec {s t : State} {i : Instr} (hturn : s.turn = .unit) (hd : s.drops = false)
    (hi : decode s.cmd = .ok i) (ht : exec i s.countTurn = .next t) : step s = .next t.finish := by
  rw [step_of_turn_unit hturn]
  exact unitStep_of_exec (by rwa [State.countTurn_drops]) (by rwa [State.countTurn_cmd]) ht

/-- No word with CLRERR's opcode is dropped while ERR = 1 (60_exceptions.md R243, R248). -/
theorem State.drops_eq_false_of_clrerr {s : State} (hfatal : s.status.fatal = false) (hop : opOf s.cmd = 0x03) :
    s.drops = false :=
  State.drops_eq_false_iff.mpr ⟨hfatal, .inr hop⟩

/-- Settles O22. NOP's opcode is not CLRERR's, so ERR = 1 drops it; CLRERR's word is never dropped for ERR, and
any other word with its opcode is not legal. -/
theorem nopAndClrerr : Obligations.NopAndClrerr := by
  unfold Obligations.NopAndClrerr
  refine ⟨by decide, by decide, exec_nop, fun s hturn herr hcmd => ?nop, exec_clrerr,
    fun s hturn hfatal hcmd => ?clrerr, fun s hturn hfatal hop hcmd => ?malformed⟩
  case nop =>
    have hop : opOf s.cmd ≠ 0x03 := by rw [hcmd]; decide
    rw [step_of_drops hturn (State.drops_iff.mpr (.inr ⟨herr, hop⟩)), State.finish, State.countTurn_status]
  case clrerr =>
    have hop : opOf s.cmd = 0x03 := by rw [hcmd]; decide
    have hdecode : decode s.cmd = .ok .clrerr := by rw [hcmd]; decide
    rw [step_of_exec hturn (State.drops_eq_false_of_clrerr hfatal hop) hdecode (exec_clrerr _),
      State.finish, State.clearError, State.countTurn_status]
  case malformed =>
    have hillegal : ¬ LegalWord s.cmd := fun hw => hcmd (eq_encode_clrerr_of_legalWord hop hw)
    rw [step_of_not_legalWord hturn (State.drops_eq_false_of_clrerr hfatal hop) hillegal, State.raise,
      State.countTurn_status]
    rfl

end Sys2Proof.Machine
end

section
/-! PROOF. Moves and bound fields (40_env_move.md R95 to R100): the register writes of canonical values, one
equation per command, O25 and O26. -/

namespace Sys2Proof.Machine

/-! ### Register writes of canonical values -/

/-- A canonical unum is written as it is (10_state.md R24). -/
theorem State.writeU_of_canonical {s : State} {v : Unum} (h : Canonical s.env v) (i : UReg) :
    s.writeU i v = { s with u := s.u.set i v } := by
  rw [State.writeU, canon_of_canonical h]

/-- A bound of canonical unums is written as it is (10_state.md R24). -/
theorem State.writeB_of_canonical {s : State} {v : Ubound} (h : CanonicalBound s.env v) (i : BReg) :
    s.writeB i v = { s with b := s.b.set i v } := by
  rw [State.writeB, canon_of_canonical h.1, canon_of_canonical h.2]

/-- The singleton of a canonical unum: its `R` field is 0. -/
theorem canonicalBound_single {E : Env} {u : Unum} (h : Canonical E u) : CanonicalBound E (single u) :=
  ⟨h, Nat.two_pow_pos _⟩

theorem State.set_readU_self (s : State) (i : UReg) : { s with u := s.u.set i (s.readU i) } = s := by
  simp [State.readU]

/-! ### One equation per command -/

section
variable {s : State} (hv : s.env.v = true) (hcanon : s.allCanonical)
include hv

theorem exec_movg (rd ra : GReg) :
    exec (.movg rd ra) s = .next { s with g := s.g.set rd (s.readG ra) } :=
  State.needEnv_of_env hv _

include hcanon

theorem exec_movu (rd ra : UReg) :
    exec (.movu rd ra) s = .next { s with u := s.u.set rd (s.readU ra) } := by
  rw [← State.writeU_of_canonical (hcanon.1 ra)]
  exact State.needEnv_of_env hv _

theorem exec_movb (rd ra : BReg) :
    exec (.movb rd ra) s = .next { s with b := s.b.set rd (s.readB ra) } := by
  rw [← State.writeB_of_canonical (hcanon.2 ra)]
  exact State.needEnv_of_env hv _

theorem exec_mkb_pair (rd : BReg) (ra rb : UReg) :
    exec (.mkb rd ra rb true) s = .next { s with b := s.b.set rd ⟨true, s.readU ra, s.readU rb⟩ } := by
  rw [← State.writeB_of_canonical ⟨hcanon.1 ra, hcanon.1 rb⟩]
  exact State.needEnv_of_env hv _

theorem exec_mkb_single (rd : BReg) (ra rb : UReg) :
    exec (.mkb rd ra rb false) s = .next { s with b := s.b.set rd (single (s.readU ra)) } := by
  rw [← State.writeB_of_canonical (canonicalBound_single (hcanon.1 ra))]
  exact State.needEnv_of_env hv _

theorem exec_getl (rd : UReg) (ra : BReg) :
    exec (.getl rd ra) s = .next { s with u := s.u.set rd (s.readB ra).l } := by
  rw [← State.writeU_of_canonical (hcanon.2 ra).1]
  exact State.needEnv_of_env hv _

theorem exec_getr_of_pair {ra : BReg} (hp : (s.readB ra).p = true) (rd : UReg) :
    exec (.getr rd ra) s = .next { s with u := s.u.set rd (s.readB ra).r } := by
  rw [← State.writeU_of_canonical (hcanon.2 ra).2, exec, execGetr, State.needEnv_of_env hv, if_pos hp]

theorem exec_getr_of_single {ra : BReg} (hp : (s.readB ra).p = false) (rd : UReg) :
    exec (.getr rd ra) s = .next { s with u := s.u.set rd (s.readB ra).l } := by
  rw [← State.writeU_of_canonical (hcanon.2 ra).1, exec, execGetr, State.needEnv_of_env hv, hp,
    if_neg Bool.false_ne_true]

end

/-- The word of a singleton MKB with a nonzero `rb` does not decode (40_env_move.md R98). -/
theorem decode_mkb_single_of_rb_ne_zero (rd : BReg) (ra : UReg) {rb : UReg} (hrb : rb ≠ 0) :
    ∃ x, decode (joinFields 0x0C rd ra rb 0) = .error x := by
  have hrow : (⟨0x0C, .fileB, .fileU, .fileU, .pairFlag⟩ : OpcodeRow) ∈ opcodeTable := by decide
  have hfields : fieldsOf (joinFields 0x0C rd ra rb 0) = ⟨0x0C, rd, ra, rb, 0⟩ :=
    fieldsOf_joinFields (by decide) (by omega) (by omega) (by omega) (by decide)
  refine Decoded.eq_error_of_not_succeeds fun hdec => hrb ?_
  rw [decode, hfields] at hdec
  obtain ⟨-, -, -, -, hsingle⟩ := (decodeFields_succeeds_iff_admits hrow rfl).mp hdec
  have hflag : slice 0 0 1 = 0 := by decide
  exact Fin.ext (hsingle rfl hflag)

/-! ### The obligations -/

/-- Settles O25. What a canonical register holds is written as it is; MOVG does not look at the value. -/
theorem movesCopyWholeRegisters : Obligations.MovesCopyWholeRegisters := by
  unfold Obligations.MovesCopyWholeRegisters
  intro s hv hcanon
  refine ⟨fun rd ra => ⟨Laws.EncodeOpcode.movu rd ra, exec_movu hv hcanon rd ra⟩, fun rd => ?movuSelf,
    fun rd ra => ⟨Laws.EncodeOpcode.movb rd ra, exec_movb hv hcanon rd ra⟩,
    fun rd ra => ⟨Laws.EncodeOpcode.movg rd ra, exec_movg hv rd ra⟩⟩
  case movuSelf => rw [exec_movu hv hcanon, State.set_readU_self]

/-- Settles O26. Each command writes canonical unums taken from the registers, as they are. -/
theorem boundFieldCommands : Obligations.BoundFieldCommands := by
  unfold Obligations.BoundFieldCommands
  refine ⟨by decide, fun rd ra _ hrb => decode_mkb_single_of_rb_ne_zero rd ra hrb, fun s hv hcanon => ?_⟩
  exact ⟨fun rd ra rb => ⟨Laws.EncodeOpcode.mkb rd ra rb true, exec_mkb_pair hv hcanon rd ra rb⟩,
    fun rd ra => ⟨Laws.EncodeOpcode.mkb rd ra 0 false, exec_mkb_single hv hcanon rd ra 0⟩,
    fun rd ra => ⟨Laws.EncodeOpcode.getl rd ra, exec_getl hv hcanon rd ra⟩,
    fun rd ra => ⟨Laws.EncodeOpcode.getr rd ra, fun hp => exec_getr_of_pair hv hcanon hp rd,
      fun hp => exec_getr_of_single hv hcanon hp rd⟩⟩

end Sys2Proof.Machine
end

section
/-! PROOF. Loads from the operand buffer (20_memory.md R51 to R57; 40_env_move.md R101, R103): what a packed unum
and a packed bound load as, one equation per arm of LDU and LDB, O27 and O29. -/

namespace Sys2Proof.Machine

/-! ### The tag bytes are the first of the loaded bytes -/

/-- The bytes of a read are those of a shorter read, then the rest (20_memory.md R52, R53). -/
theorem leNat_readBytes_add (m : Memory) (a n k : Nat) :
    leNat (m.readBytes a (n + k)) =
      leNat (m.readBytes a n) + leNat (m.readBytes (a + n) k) * 2 ^ (8 * n) := by
  induction n generalizing a with
  | zero => simp [Memory.readBytes, leNat]
  | succ n ih =>
    have haddr : a + 1 + n = a + (n + 1) := by omega
    rw [Nat.succ_add, Memory.readBytes, Memory.readBytes, leNat, leNat, ih, haddr]
    ring

/-- The length of a unum depends on its tag only (10_state.md R23). -/
theorem numbits_add_high {E : Env} {k : Nat} (hk : E.utagsize ≤ k) (x y : Nat) :
    numbits E (x + y * 2 ^ k) = numbits E x := by
  rw [Env.utagsize] at hk
  rw [numbits, numbits, fsOf, esOf, fsOf, esOf, slice_add_high (by omega), slice_add_high (by omega)]

theorem tagBytes_le_nbytes (E : Env) (u : Unum) : tagBytes E ≤ nbytes E u := by
  rw [tagBytes, nbytes, numbits]
  omega

/-- Any read that covers the tag bytes gives the length the tag bytes give. -/
theorem numbits_leNat_readBytes {E : Env} {n : Nat} (hn : tagBytes E ≤ n) (m : Memory) (a : Nat) :
    numbits E (leNat (m.readBytes a n)) = numbits E (leNat (m.readBytes a (tagBytes E))) := by
  obtain ⟨k, rfl⟩ := Nat.exists_eq_add_of_le hn
  have htag : E.utagsize ≤ 8 * tagBytes E := by rw [tagBytes]; omega
  rw [leNat_readBytes_add, numbits_add_high htag]

/-- What a packed unum loads as is canonical (20_memory.md R55, 10_state.md R24). -/
theorem State.canonical_unpackU {s : State} {a : Nat} {x : Unpacked} (h : s.unpackU a = .ok x) :
    Canonical s.env x.unum := by
  obtain ⟨-, -, hlen, hunum⟩ := State.unpackU_ok h
  have hcovers : tagBytes s.env ≤ x.len := hlen ▸ tagBytes_le_nbytes _ _
  have hcanon : x.unum = canon s.env (leNat (s.buf.readBytes a x.len)) := by
    rw [hunum, canon, numbits_leNat_readBytes hcovers]
  exact hcanon ▸ canonical_canon _ _

/-! ### The arms of a load -/

/-- A packed unum whose tag bytes and bytes lie within the buffer (20_memory.md R55). -/
theorem State.unpackU_of_fits {s : State} {a : Nat} {t : Unum}
    (ht : t = leNat (s.buf.readBytes a (tagBytes s.env))) (htag : a + tagBytes s.env ≤ s.cfg.bufsz)
    (hall : a + nbytes s.env t ≤ s.cfg.bufsz) :
    s.unpackU a =
      .ok ⟨slice (leNat (s.buf.readBytes a (nbytes s.env t))) 0 (numbits s.env t), nbytes s.env t⟩ := by
  subst ht
  rw [State.unpackU, if_neg (Nat.not_lt.mpr htag), if_neg (Nat.not_lt.mpr hall)]

/-- A packed unum that passes the buffer's end with its tag bytes or with its bytes (20_memory.md R51). -/
theorem State.unpackU_of_passes_end {s : State} {a : Nat}
    (h : s.cfg.bufsz < a + tagBytes s.env ∨
      s.cfg.bufsz < a + nbytes s.env (leNat (s.buf.readBytes a (tagBytes s.env)))) :
    s.unpackU a = .error .range := by
  have hpasses : s.cfg.bufsz < a + nbytes s.env (leNat (s.buf.readBytes a (tagBytes s.env))) :=
    h.elim (fun htag => Nat.lt_of_lt_of_le htag (Nat.add_le_add_left (tagBytes_le_nbytes _ _) a)) id
  rw [State.unpackU, if_pos hpasses, ite_self]

section
variable {s : State} {a : Nat}

/-- The flag byte's address is not in the buffer (40_env_move.md R103). -/
theorem State.unpackB_of_passes_end (h : s.cfg.bufsz ≤ a) : s.unpackB a = .error .range := if_pos h

/-- The flag byte is neither 0 nor 1 (20_memory.md R57). -/
theorem State.unpackB_of_bad_flag (h : a < s.cfg.bufsz) (hf : 1 < (s.buf.read a).toNat) :
    s.unpackB a = .error .field := by
  rw [State.unpackB, if_neg (Nat.not_le.mpr h), if_pos hf]

theorem State.unpackB_of_left_error (h : a < s.cfg.bufsz) (hf : (s.buf.read a).toNat ≤ 1) {x : ErrCode}
    (hl : s.unpackU (a + 1) = .error x) : s.unpackB a = .error x := by
  simp [State.unpackB, Nat.not_le.mpr h, Nat.not_lt.mpr hf, hl]

theorem State.unpackB_of_single (h : a < s.cfg.bufsz) (hf : (s.buf.read a).toNat = 0) {l : Unpacked}
    (hl : s.unpackU (a + 1) = .ok l) : s.unpackB a = .ok (single l.unum) := by
  simp [State.unpackB, Nat.not_le.mpr h, hf, hl]

theorem State.unpackB_of_right_error (h : a < s.cfg.bufsz) (hf : (s.buf.read a).toNat = 1) {l : Unpacked}
    (hl : s.unpackU (a + 1) = .ok l) {x : ErrCode} (hr : s.unpackU (a + 1 + l.len) = .error x) :
    s.unpackB a = .error x := by
  simp [State.unpackB, Nat.not_le.mpr h, hf, hl, hr]

theorem State.unpackB_of_pair (h : a < s.cfg.bufsz) (hf : (s.buf.read a).toNat = 1) {l r : Unpacked}
    (hl : s.unpackU (a + 1) = .ok l) (hr : s.unpackU (a + 1 + l.len) = .ok r) :
    s.unpackB a = .ok ⟨true, l.unum, r.unum⟩ := by
  simp [State.unpackB, Nat.not_le.mpr h, hf, hl, hr]

end

/-! ### LDU and LDB: the loaded value written, or the error raised -/

section
variable {s : State} (hv : s.env.v = true)
include hv

theorem exec_ldu_of_ok {addr : Imm} {x : Unpacked} (h : s.unpackU addr.toNat = .ok x) (rd : UReg) :
    exec (.ldu rd addr) s = .next { s with u := s.u.set rd x.unum } := by
  rw [exec, execLdu, State.needEnv_of_env hv, h, State.onLoad,
    State.writeU_of_canonical (State.canonical_unpackU h)]

theorem exec_ldu_of_error {addr : Imm} {x : ErrCode} (h : s.unpackU addr.toNat = .error x) (rd : UReg) :
    exec (.ldu rd addr) s = .next (s.raise x) := by
  rw [exec, execLdu, State.needEnv_of_env hv, h, State.onLoad]

theorem exec_ldb_of_ok {addr : Imm} {x : Ubound} (h : s.unpackB addr.toNat = .ok x)
    (hcanon : CanonicalBound s.env x) (rd : BReg) :
    exec (.ldb rd addr) s = .next { s with b := s.b.set rd x } := by
  rw [exec, execLdb, State.needEnv_of_env hv, h, State.onLoad, State.writeB_of_canonical hcanon]

theorem exec_ldb_of_error {addr : Imm} {x : ErrCode} (h : s.unpackB addr.toNat = .error x) (rd : BReg) :
    exec (.ldb rd addr) s = .next (s.raise x) := by
  rw [exec, execLdb, State.needEnv_of_env hv, h, State.onLoad]

end

/-! ### The obligations -/

/-- The length of a unum, its tag's fields written out (00_scope.md R6, 10_state.md R23). -/
theorem numbits_eq (E : Env) (t : Unum) :
    numbits E t = 1 + E.ess.toNat + E.fss.toNat + (t % 2 ^ E.fss.toNat + 1) +
      (t / 2 ^ E.fss.toNat % 2 ^ E.ess.toNat + 1) + 1 := by
  simp [numbits, Env.utagsize, fsOf, esOf, slice]

/-- Settles O27. The statement's sizes are those of the tag bytes read; the loaded unum is canonical, because any
read that covers the tag bytes has their length, so the write keeps it as it is. -/
theorem loadUnum : Obligations.LoadUnum := by
  unfold Obligations.LoadUnum
  intro s rd addr hv E a utagsize tb t fs es nb n
  have hnb : numbits E t = nb := numbits_eq E t
  have hn : nbytes E t = n := by rw [nbytes, hnb]
  refine ⟨Laws.EncodeOpcode.ldu rd addr, fun htag hall => ?fits, fun hpasses => ?passes⟩
  case fits =>
    have hload : s.unpackU a = .ok ⟨slice (leNat (s.buf.readBytes a n)) 0 nb, n⟩ := by
      rw [← hn, ← hnb]
      exact State.unpackU_of_fits rfl htag (hn ▸ hall)
    rw [exec_ldu_of_ok hv hload, slice, Nat.pow_zero, Nat.div_one]
  case passes => exact exec_ldu_of_error hv (State.unpackU_of_passes_end (hpasses.imp_right (hn ▸ ·))) rd

/-- Settles O29. One arm of the load per clause; a unum that fails to load fails with E_RANGE, and one that loads is
canonical, so the write keeps the bound as it is. -/
theorem loadBound : Obligations.LoadBound := by
  unfold Obligations.LoadBound
  intro s rd addr hv a f raises
  have hrange {x : ErrCode} (hx : x = .range) (h : s.unpackB a = .error x) : raises 0x05 := by
    subst hx
    exact exec_ldb_of_error hv h rd
  refine ⟨Laws.EncodeOpcode.ldb rd addr, fun hend => hrange rfl (State.unpackB_of_passes_end hend),
    fun hin hf => exec_ldb_of_error hv (State.unpackB_of_bad_flag hin hf) rd,
    fun hin hf x hx => hrange (State.unpackU_error hx) (State.unpackB_of_left_error hin hf hx),
    fun hin hf l hl => ?single, fun hin hf l hl => ⟨fun x hx => ?rightError, fun r hr => ?pair⟩⟩
  case single =>
    exact exec_ldb_of_ok hv (State.unpackB_of_single hin hf hl)
      (canonicalBound_single (State.canonical_unpackU hl)) rd
  case rightError => exact hrange (State.unpackU_error hx) (State.unpackB_of_right_error hin hf hl hx)
  case pair =>
    exact exec_ldb_of_ok hv (State.unpackB_of_pair hin hf hl hr)
      ⟨State.canonical_unpackU hl, State.canonical_unpackU hr⟩ rd

end Sys2Proof.Machine
end

section
/-! PROOF. The packed bound (20_memory.md R57) and STB (40_env_move.md R104): the place of each byte in the packed
image, one equation per arm of the command, and O30. -/

namespace Sys2Proof.Machine

/-! ### The bytes of a packed bound -/

/-- The bytes a packed bound gives its right unum: none for a singleton (20_memory.md R57). -/
def nbytesRight (E : Env) (b : Ubound) : Nat := if b.p then nbytes E b.r else 0

/-- Byte `k` of a packed unum (20_memory.md R56). -/
theorem getElem?_packU {E : Env} {u : Unum} {k : Nat} (hk : k < nbytes E u) :
    (packU E u)[k]? = some (BitVec.ofNat 8 (u / 2 ^ (8 * k))) := getElem?_leBytes u hk

/-- The packed bound as flag byte, left unum and what follows it. -/
theorem packB_eq (E : Env) (b : Ubound) :
    packB E b = BitVec.ofNat 8 b.p.toNat :: (packU E b.l ++ if b.p then packU E b.r else []) := by
  cases hp : b.p <;> simp [packB, hp]

theorem length_packB (E : Env) (b : Ubound) : (packB E b).length = 1 + nbytes E b.l + nbytesRight E b := by
  cases hp : b.p <;> simp [packB_eq, nbytesRight, hp] <;> omega

theorem getElem?_packB_flag (E : Env) (b : Ubound) : (packB E b)[0]? = some (BitVec.ofNat 8 b.p.toNat) := by
  rw [packB_eq, List.getElem?_cons_zero]

theorem getElem?_packB_left {E : Env} {b : Ubound} {k : Nat} (hk : k < nbytes E b.l) :
    (packB E b)[1 + k]? = some (BitVec.ofNat 8 (b.l / 2 ^ (8 * k))) := by
  rw [packB_eq, Nat.add_comm, List.getElem?_cons_succ, List.getElem?_append_left (by rwa [length_packU]),
    getElem?_packU hk]

theorem getElem?_packB_right {E : Env} {b : Ubound} {k : Nat} (hk : k < nbytesRight E b) :
    (packB E b)[1 + nbytes E b.l + k]? = some (BitVec.ofNat 8 (b.r / 2 ^ (8 * k))) := by
  cases hp : b.p with
  | false => simp [nbytesRight, hp] at hk
  | true =>
    have hplace : 1 + nbytes E b.l + k = (packU E b.l).length + k + 1 := by rw [length_packU]; omega
    rw [nbytesRight, if_pos hp] at hk
    rw [packB_eq, if_pos hp, hplace, List.getElem?_cons_succ, List.getElem?_append_right (by omega),
      Nat.add_sub_cancel_left, getElem?_packU hk]

/-- A byte of a stored image, as the number it was packed from. -/
theorem Memory.toNat_read_writeBytes {m : Memory} (h : Memory.wf m) (a : Nat) {bs : List Byte} {k v : Nat}
    (hk : bs[k]? = some (BitVec.ofNat 8 v)) : ((m.writeBytes a bs).read (a + k)).toNat = v % 2 ^ 8 := by
  rw [Memory.read_writeBytes_inside h a hk, BitVec.toNat_ofNat]

/-! ### The two arms of STB -/

section
variable {s : State} (hv : s.env.v = true) {ra : BReg} {addr : Imm}
include hv

/-- STB of a bound that ends within the buffer (40_env_move.md R104). -/
theorem exec_stb_of_fits (h : addr.toNat + (packB s.env (s.readB ra)).length ≤ s.cfg.bufsz) :
    exec (.stb ra addr) s =
      .next { s with buf := s.buf.writeBytes addr.toNat (packB s.env (s.readB ra)) } := by
  rw [exec, execStb, State.needEnv_of_env hv, State.storeBytes_of_fits h]

/-- STB of a bound that passes the buffer's end (20_memory.md R51). -/
theorem exec_stb_of_passes_end (h : s.cfg.bufsz < addr.toNat + (packB s.env (s.readB ra)).length) :
    exec (.stb ra addr) s = .next (s.raise .range) := by
  rw [exec, execStb, State.needEnv_of_env hv, State.storeBytes_of_passes_end h]

end

/-- Settles O30. The buffer left is the old one with the packed bound written at the address: a byte inside is read
by its place in the packed bound, a byte outside is not touched. -/
theorem storeBound : Obligations.StoreBound := by
  unfold Obligations.StoreBound
  intro s ra addr hv _ hwf b a nl nr
  have hend : a + (packB s.env b).length = a + 1 + nl + nr := by
    rw [length_packB, ← Nat.add_assoc, ← Nat.add_assoc]
    rfl
  refine ⟨Laws.EncodeOpcode.stb ra addr, fun hfits => ?fits,
    fun hpasses => exec_stb_of_passes_end hv (hend ▸ hpasses)⟩
  case fits =>
    refine ⟨s.buf.writeBytes a (packB s.env b), exec_stb_of_fits hv (hend ▸ hfits),
      Memory.wf_writeBytes hwf a _, ?flag, fun k hk => ?left, fun k hk => ?right,
      fun c hc => Memory.read_writeBytes_outside hwf (hend ▸ hc)⟩
    case flag =>
      have hflag : b.p.toNat < 2 ^ 8 := Nat.lt_of_le_of_lt (Bool.toNat_le b.p) (by decide)
      exact (Memory.toNat_read_writeBytes hwf a (getElem?_packB_flag s.env b)).trans (Nat.mod_eq_of_lt hflag)
    case left =>
      rw [Nat.add_assoc]
      exact Memory.toNat_read_writeBytes hwf a (getElem?_packB_left hk)
    case right =>
      rw [Nat.add_assoc, Nat.add_assoc, ← Nat.add_assoc 1]
      exact Memory.toNat_read_writeBytes hwf a (getElem?_packB_right hk)

end Sys2Proof.Machine
end

section
/-! PROOF. The value of a unum and its fields (42_pack.md R151, 41_tag.md R123): two encodings of one number have one
normalised form, a unum without the maximum tag or without an all-ones payload is no infinity and no NaN, and such
unums of one sign and magnitude have one value. -/

namespace Sys2Proof.Machine

/-! ### The normalised encoding (10_state.md R27) -/

/-- A significand with a trailing zero normalises as the one without it. -/
theorem Dyad.norm_double (sg : Bool) (m : Nat) (x : Int) :
    Dyad.norm ⟨sg, 2 * m, x - 1⟩ = Dyad.norm ⟨sg, m, x⟩ := by
  rcases Nat.eq_zero_or_pos m with rfl | hm
  · rfl
  · have hlog : (2 * m).log2 = m.log2 + 1 := by
      rw [Nat.mul_comm]
      exact log2_shift hm.ne' 1
    have hodd : oddPart (m.log2 + 1) (2 * m) (x - 1) = oddPart m.log2 m x := by
      simp [oddPart]
    simp [Dyad.norm, hm.ne', hlog, hodd]

/-- A significand with `k` trailing zeros normalises as the one without them. -/
theorem Dyad.norm_shift (sg : Bool) (m k : Nat) (x : Int) :
    Dyad.norm ⟨sg, m * 2 ^ k, x - k⟩ = Dyad.norm ⟨sg, m, x⟩ := by
  induction k with
  | zero => simp
  | succ k ih =>
    have hman : m * 2 ^ (k + 1) = 2 * (m * 2 ^ k) := by ring
    have hexp : x - ((k + 1 : Nat) : Int) = x - k - 1 := by omega
    rw [hman, hexp, Dyad.norm_double, ih]

/-! ### The value of a unum (42_pack.md R151) -/

theorem magOf_subnormal (f es fs : Nat) : magOf 0 f es fs = Dyad.norm ⟨false, f, 1 - bias es - fs⟩ := if_pos rfl

theorem magOf_normal {e : Nat} (he : e ≠ 0) (f es fs : Nat) :
    magOf e f es fs = Dyad.norm ⟨false, 2 ^ fs + f, e - bias es - fs⟩ := if_neg he

theorem isSpecial_eq_false_of_fsOf {E : Env} {u : Unum} (h : fsOf E u ≠ E.fsmax) : isSpecial E u = false := by
  simp [isSpecial, h]

theorem isSpecial_eq_false_of_esOf {E : Env} {u : Unum} (h : esOf E u ≠ E.esmax) : isSpecial E u = false := by
  simp [isSpecial, h]

/-- The fraction of an infinity or NaN is odd. -/
theorem isSpecial_eq_false_of_even_frac {E : Env} {u : Unum} (h : 2 ∣ fracOf E u) : isSpecial E u = false := by
  have hfs : 2 ∣ 2 ^ E.fsmax := dvd_pow_self 2 (Nat.two_pow_pos _).ne'
  have hpos := Nat.two_pow_pos E.fsmax
  have hne : fracOf E u ≠ ones E.fsmax := by
    rw [ones]
    omega
  simp [isSpecial, hne]

/-- The exponent of an infinity or NaN is all ones. -/
theorem isSpecial_eq_false_of_expo {E : Env} {u : Unum} (h : expoOf E u ≠ ones (esOf E u)) :
    isSpecial E u = false := by
  by_cases hes : esOf E u = E.esmax
  · rw [hes] at h
    simp [isSpecial, h]
  · exact isSpecial_eq_false_of_esOf hes

/-- The value of a unum that is no infinity and no NaN is given by its sign and magnitude. -/
theorem u2r_eq_of_mag {E : Env} {u x : Unum} (hu : isSpecial E u = false) (hx : isSpecial E x = false)
    (hs : signOf E x = signOf E u) (hm : mag E x = mag E u) : u2r E x = u2r E u := by
  simp [u2r, hu, hx, hs, hm]

/-- The magnitude of a unum of given fields. -/
theorem mag_of_hasFields {E : Env} {x : Unum} {s : Bool} {e f : Nat} {ub : Bool} {es fs : Nat}
    (h : HasFields E x s e f ub es fs) : mag E x = magOf e f es fs := by
  obtain ⟨-, rfl, rfl, -, rfl, rfl, -⟩ := h
  rfl

end Sys2Proof.Machine
end

section
/-! PROOF. Promotion (41_tag.md R130, R131, R134, R136): the fields of a promoted unum, the number it keeps, and the
sizes the loops of `ppair` reach. -/

namespace Sys2Proof.Machine

/-- `x` is a canonical exact unum of the sign and value of `u` (41_tag.md R135 (a)). -/
structure KeepsNumber (E : Env) (u x : Unum) : Prop where
  canonical : Canonical E x
  ubit : ubitOf E x = false
  sign : signOf E x = signOf E u
  value : u2r E x = u2r E u

theorem KeepsNumber.refl {E : Env} {u : Unum} (hc : Canonical E u) (hx : ubitOf E u = false) : KeepsNumber E u u :=
  ⟨hc, hx, rfl, rfl⟩

theorem KeepsNumber.trans {E : Env} {u x y : Unum} (hx : KeepsNumber E u x) (hy : KeepsNumber E x y) :
    KeepsNumber E u y :=
  ⟨hy.canonical, hy.ubit, hy.sign.trans hx.sign, hy.value.trans hx.value⟩

/-! ### Fraction promotion (41_tag.md R130) -/

theorem promf_of_max {E : Env} {u : Unum} (h : fsOf E u = E.fsmax) : promf E u = u := if_pos h

theorem promf_hasFields {E : Env} {u : Unum} (h : fsOf E u ≠ E.fsmax) :
    HasFields E (promf E u) (signOf E u) (expoOf E u) (2 * fracOf E u) false (esOf E u) (fsOf E u + 1) := by
  have hfs := fsOf_le E u
  have hfrac := fracOf_lt E u
  rw [promf, if_neg h]
  exact mk_hasFields E _ _ (by omega) (by omega) (esOf_pos E u) (esOf_le E u) (by rw [pow_succ]; omega) (expoOf_lt E u)

theorem esOf_promf (E : Env) (u : Unum) : esOf E (promf E u) = esOf E u := by
  by_cases h : fsOf E u = E.fsmax
  · rw [promf_of_max h]
  · obtain ⟨-, -, -, -, hes, -, -⟩ := promf_hasFields h
    exact hes

theorem fsOf_promf {E : Env} {u : Unum} (h : fsOf E u < E.fsmax) : fsOf E (promf E u) = fsOf E u + 1 := by
  obtain ⟨-, -, -, -, -, hfs, -⟩ := promf_hasFields h.ne
  exact hfs

/-- One fraction bit more, and a fraction twice as large, are one number. -/
theorem magOf_double_frac (e f es fs : Nat) : magOf e (2 * f) es (fs + 1) = magOf e f es fs := by
  have hexp (x : Int) : x - ((fs + 1 : Nat) : Int) = x - fs - 1 := by omega
  by_cases he : e = 0
  · rw [he, magOf_subnormal, magOf_subnormal, hexp, Dyad.norm_double]
  · have hman : 2 ^ (fs + 1) + 2 * f = 2 * (2 ^ fs + f) := by ring
    rw [magOf_normal he, magOf_normal he, hexp, hman, Dyad.norm_double]

/-- A fraction promoted is even, so the unum is no infinity, and its value is the operand's. -/
theorem u2r_promf (E : Env) (u : Unum) : u2r E (promf E u) = u2r E u := by
  by_cases h : fsOf E u = E.fsmax
  · rw [promf_of_max h]
  · have hfields := promf_hasFields h
    have hmag : mag E (promf E u) = mag E u := by
      rw [mag_of_hasFields hfields, magOf_double_frac, mag]
    obtain ⟨hsign, -, hfrac, -⟩ := hfields
    exact u2r_eq_of_mag (isSpecial_eq_false_of_fsOf h) (isSpecial_eq_false_of_even_frac ⟨_, hfrac⟩) hsign hmag

theorem promf_keepsNumber {E : Env} {u : Unum} (hc : Canonical E u) (hx : ubitOf E u = false) :
    KeepsNumber E u (promf E u) := by
  by_cases h : fsOf E u = E.fsmax
  · rw [promf_of_max h]
    exact .refl hc hx
  · obtain ⟨hsign, -, -, hubit, -, -, hcanon⟩ := promf_hasFields h
    exact ⟨hcanon, hubit, hsign, u2r_promf E u⟩

/-! ### Exponent promotion (41_tag.md R131) -/

theorem prome_of_max {E : Env} {u : Unum} (h : esOf E u = E.esmax) : prome E u = u := if_pos h

/-- The four arms of exponent promotion, `D = 2^(es-1)` and `k` the place of the leading fraction bit: a normal, zero,
a subnormal that becomes normal, a subnormal that stays one. -/
theorem promePayload_cases (e f es fs : Nat) :
    (e ≠ 0 ∧ promePayload e f es fs = (e + 2 ^ (es - 1), f)) ∨
    (e = 0 ∧ f = 0 ∧ promePayload e f es fs = (0, 0)) ∨
    (e = 0 ∧ f ≠ 0 ∧ fs ≤ f.log2 + 2 ^ (es - 1) ∧
      promePayload e f es fs = (1 + f.log2 + 2 ^ (es - 1) - fs, (f - 2 ^ f.log2) * 2 ^ (fs - f.log2))) ∨
    (e = 0 ∧ f ≠ 0 ∧ f.log2 + 2 ^ (es - 1) < fs ∧ promePayload e f es fs = (0, f * 2 ^ 2 ^ (es - 1))) := by
  by_cases he : e = 0
  · by_cases hf : f = 0
    · exact .inr (.inl ⟨he, hf, by simp [promePayload, he, hf]⟩)
    · by_cases hk : fs ≤ f.log2 + 2 ^ (es - 1)
      · exact .inr (.inr (.inl ⟨he, hf, hk, by simp [promePayload, he, hf, hk]⟩))
      · exact .inr (.inr (.inr ⟨he, hf, by omega, by simp [promePayload, he, hf, hk]⟩))
  · exact .inl ⟨he, by simp [promePayload, he]⟩

/-- A subnormal's fraction `f` of `fs` bits, its leading bit moved up to the hidden bit's place (41_tag.md R131). -/
theorem hidden_add_moved_frac {f fs : Nat} (hf0 : f ≠ 0) (hf : f < 2 ^ fs) :
    2 ^ fs + (f - 2 ^ f.log2) * 2 ^ (fs - f.log2) = f * 2 ^ (fs - f.log2) := by
  have hlog : f.log2 < fs := (Nat.log2_lt hf0).2 hf
  have hlead : 2 ^ f.log2 ≤ f := Nat.log2_self_le hf0
  have hhidden : 2 ^ fs = 2 ^ f.log2 * 2 ^ (fs - f.log2) := by rw [← pow_add, Nat.add_sub_cancel' hlog.le]
  conv_lhs => rw [hhidden]
  rw [← Nat.add_mul, Nat.add_sub_cancel' hlead]

theorem shift_lt_two_pow {f d n : Nat} (hf0 : f ≠ 0) (h : f.log2 + d < n) : f * 2 ^ d < 2 ^ n :=
  (Nat.log2_lt (Nat.mul_ne_zero hf0 (Nat.two_pow_pos d).ne')).1 ((log2_shift hf0 d).trans_lt h)

section
variable {e f es fs : Nat} (hf : f < 2 ^ fs)
include hf

/-- The widened exponent is not all ones. -/
theorem promePayload_expo_lt (hes : 1 ≤ es) (he : e < 2 ^ es) : (promePayload e f es fs).1 < ones (es + 1) := by
  have hD := Nat.two_pow_pos (es - 1)
  have hpow := Nat.two_pow_pred_mul_two hes
  rw [ones, pow_succ]
  obtain ⟨-, h⟩ | ⟨-, -, h⟩ | ⟨-, hf0, hk, h⟩ | ⟨-, -, -, h⟩ := promePayload_cases e f es fs <;> rw [h]
  · omega
  · omega
  · have hlog : f.log2 < fs := (Nat.log2_lt hf0).2 hf
    omega
  · omega

/-- The fraction of a widened payload fits the fraction size kept. -/
theorem promePayload_frac_lt : (promePayload e f es fs).2 < 2 ^ fs := by
  obtain ⟨-, h⟩ | ⟨-, -, h⟩ | ⟨-, hf0, -, h⟩ | ⟨-, hf0, hk, h⟩ := promePayload_cases e f es fs <;> rw [h]
  · exact hf
  · exact Nat.two_pow_pos fs
  · have hlog : f.log2 < fs := (Nat.log2_lt hf0).2 hf
    have hmoved := hidden_add_moved_frac hf0 hf
    have hlt : f * 2 ^ (fs - f.log2) < 2 ^ (fs + 1) := shift_lt_two_pow hf0 (by omega)
    rw [pow_succ] at hlt
    omega
  · exact shift_lt_two_pow hf0 hk

/-- The widened payload is the same number: the bias grows by `D`, which a normal adds to its exponent and a
subnormal makes up for by moving its fraction. -/
theorem magOf_promePayload (hes : 1 ≤ es) :
    magOf (promePayload e f es fs).1 (promePayload e f es fs).2 (es + 1) fs = magOf e f es fs := by
  have hbias : bias (es + 1) = bias es + (2 ^ (es - 1) : Nat) := by
    rw [bias, bias, Nat.add_sub_cancel]
    have hpow : (2 : Int) ^ (es - 1) * 2 = 2 ^ es := by rw [← pow_succ, Nat.sub_add_cancel hes]
    push_cast
    omega
  obtain ⟨he, h⟩ | ⟨rfl, rfl, h⟩ | ⟨rfl, hf0, hk, h⟩ | ⟨rfl, -, -, h⟩ := promePayload_cases e f es fs <;> rw [h]
  · have hexp : ((e + 2 ^ (es - 1) : Nat) : Int) - bias (es + 1) - fs = e - bias es - fs := by omega
    have hne : e + 2 ^ (es - 1) ≠ 0 := (Nat.add_pos_left (Nat.pos_of_ne_zero he) _).ne'
    rw [magOf_normal hne, magOf_normal he, hexp]
  · rfl
  · have hlog : f.log2 < fs := (Nat.log2_lt hf0).2 hf
    have hb : (2 : Int) ^ (es - 1) = bias es + 1 := by rw [bias]; ring
    have hexp : ((1 + f.log2 + 2 ^ (es - 1) - fs : Nat) : Int) - bias (es + 1) - fs =
        1 - bias es - fs - (fs - f.log2 : Nat) := by omega
    rw [magOf_normal (by omega), hidden_add_moved_frac hf0 hf, hexp, Dyad.norm_shift, magOf_subnormal]
  · have hexp : 1 - bias (es + 1) - fs = 1 - bias es - fs - (2 ^ (es - 1) : Nat) := by omega
    rw [magOf_subnormal, hexp, Dyad.norm_shift, magOf_subnormal]

end

theorem prome_hasFields {E : Env} {u : Unum} (h : esOf E u ≠ E.esmax) :
    HasFields E (prome E u) (signOf E u) (promePayload (expoOf E u) (fracOf E u) (esOf E u) (fsOf E u)).1
      (promePayload (expoOf E u) (fracOf E u) (esOf E u) (fsOf E u)).2 false (esOf E u + 1) (fsOf E u) := by
  have hes := esOf_le E u
  have hexpo := promePayload_expo_lt (fracOf_lt E u) (esOf_pos E u) (expoOf_lt E u)
  rw [prome, if_neg h]
  exact mk_hasFields E _ _ (fsOf_pos E u) (fsOf_le E u) (by omega) (by omega)
    (promePayload_frac_lt (fracOf_lt E u)) (hexpo.trans_le (Nat.sub_le _ _))

theorem fsOf_prome (E : Env) (u : Unum) : fsOf E (prome E u) = fsOf E u := by
  by_cases h : esOf E u = E.esmax
  · rw [prome_of_max h]
  · obtain ⟨-, -, -, -, -, hfs, -⟩ := prome_hasFields h
    exact hfs

theorem esOf_prome {E : Env} {u : Unum} (h : esOf E u < E.esmax) : esOf E (prome E u) = esOf E u + 1 := by
  obtain ⟨-, -, -, -, hes, -, -⟩ := prome_hasFields h.ne
  exact hes

/-- A promoted exponent is not all ones, so the unum is no infinity, and its value is the operand's. -/
theorem u2r_prome (E : Env) (u : Unum) : u2r E (prome E u) = u2r E u := by
  by_cases h : esOf E u = E.esmax
  · rw [prome_of_max h]
  · have hfields := prome_hasFields h
    have hmag : mag E (prome E u) = mag E u := by
      rw [mag_of_hasFields hfields, magOf_promePayload (fracOf_lt E u) (esOf_pos E u), mag]
    obtain ⟨hsign, hexpo, -, -, hes, -, -⟩ := hfields
    have hnotOnes : expoOf E (prome E u) ≠ ones (esOf E (prome E u)) := by
      rw [hexpo, hes]
      exact (promePayload_expo_lt (fracOf_lt E u) (esOf_pos E u) (expoOf_lt E u)).ne
    exact u2r_eq_of_mag (isSpecial_eq_false_of_esOf h) (isSpecial_eq_false_of_expo hnotOnes) hsign hmag

theorem prome_keepsNumber {E : Env} {u : Unum} (hc : Canonical E u) (hx : ubitOf E u = false) :
    KeepsNumber E u (prome E u) := by
  by_cases h : esOf E u = E.esmax
  · rw [prome_of_max h]
    exact .refl hc hx
  · obtain ⟨hsign, -, -, hubit, -, -, hcanon⟩ := prome_hasFields h
    exact ⟨hcanon, hubit, hsign, u2r_prome E u⟩

/-! ### Promotion to a tag (41_tag.md R134, R136) -/

/-- What every step keeps, any number of steps keep. -/
theorem times_keeps {P : Unum → Prop} {step : Unum → Unum} (hstep : ∀ u, P u → P (step u)) (n : Nat) {u : Unum}
    (h : P u) : P (times step n u) := by
  induction n generalizing u with
  | zero => exact h
  | succ n ih => exact ih (hstep u h)

/-- A size that a step below its limit raises by one is raised by as many as there are steps. -/
theorem size_times {size : Unum → Nat} {limit : Nat} {step : Unum → Unum}
    (hstep : ∀ u, size u < limit → size (step u) = size u + 1) (n : Nat) {u : Unum} (h : size u + n ≤ limit) :
    size (times step n u) = size u + n := by
  induction n generalizing u with
  | zero => rfl
  | succ n ih =>
    have hone := hstep u (by omega)
    rw [times, ih (by omega), hone]
    omega

theorem fsOf_times_prome (E : Env) (n : Nat) (u : Unum) : fsOf E (times (prome E) n u) = fsOf E u :=
  times_keeps (P := fun x => fsOf E x = fsOf E u) (fun x h => (fsOf_prome E x).trans h) n rfl

theorem esOf_times_promf (E : Env) (n : Nat) (u : Unum) : esOf E (times (promf E) n u) = esOf E u :=
  times_keeps (P := fun x => esOf E x = esOf E u) (fun x h => (esOf_promf E x).trans h) n rfl

theorem esOf_times_prome {E : Env} {n : Nat} {u : Unum} (h : esOf E u + n ≤ E.esmax) :
    esOf E (times (prome E) n u) = esOf E u + n :=
  size_times (size := esOf E) (fun _ => esOf_prome) n h

theorem fsOf_times_promf {E : Env} {n : Nat} {u : Unum} (h : fsOf E u + n ≤ E.fsmax) :
    fsOf E (times (promf E) n u) = fsOf E u + n :=
  size_times (size := fsOf E) (fun _ => fsOf_promf) n h

theorem promoteTo_keepsNumber {E : Env} {u : Unum} (hc : Canonical E u) (hx : ubitOf E u = false) (es' fs' : Nat) :
    KeepsNumber E u (promoteTo E u es' fs') := by
  have hprome (x : Unum) (h : KeepsNumber E u x) : KeepsNumber E u (prome E x) :=
    h.trans (prome_keepsNumber h.canonical h.ubit)
  have hpromf (x : Unum) (h : KeepsNumber E u x) : KeepsNumber E u (promf E x) :=
    h.trans (promf_keepsNumber h.canonical h.ubit)
  exact times_keeps hpromf _ (times_keeps hprome _ (.refl hc hx))

theorem esOf_promoteTo {E : Env} {es' : Nat} (h : es' ≤ E.esmax) (u : Unum) (fs' : Nat) :
    esOf E (promoteTo E u es' fs') = max (esOf E u) es' := by
  have hes := esOf_le E u
  rw [promoteTo, esOf_times_promf, esOf_times_prome (by omega)]
  omega

theorem fsOf_promoteTo {E : Env} {fs' : Nat} (h : fs' ≤ E.fsmax) (u : Unum) (es' : Nat) :
    fsOf E (promoteTo E u es' fs') = max (fsOf E u) fs' := by
  have hfs := fsOf_le E u
  have hkept := fsOf_times_prome E (es' - esOf E u) u
  rw [promoteTo, fsOf_times_promf (by omega), hkept]
  omega

/-- A target exponent size that is not above the unum's own does not matter. -/
theorem promoteTo_of_es_le {E : Env} {u : Unum} {es' : Nat} (h : es' ≤ esOf E u) (fs' : Nat) :
    promoteTo E u es' fs' = times (promf E) (fs' - fsOf E u) u := by
  rw [promoteTo, Nat.sub_eq_zero_of_le h, times]

theorem promoteTo_of_le {E : Env} {u : Unum} {es' fs' : Nat} (hes : es' ≤ esOf E u) (hfs : fs' ≤ fsOf E u) :
    promoteTo E u es' fs' = u := by
  rw [promoteTo_of_es_le hes, Nat.sub_eq_zero_of_le hfs, times]

/-- One turn of the exponent loop. -/
theorem promoteTo_prome {E : Env} {u : Unum} {es' : Nat} (h : esOf E u < es') (hmax : es' ≤ E.esmax) (fs' : Nat) :
    promoteTo E (prome E u) es' fs' = promoteTo E u es' fs' := by
  have hturns : es' - esOf E u = es' - (esOf E u + 1) + 1 := by omega
  rw [promoteTo, promoteTo, esOf_prome (by omega), fsOf_prome, hturns, times]

/-- One turn of the fraction loop, entered when the exponent loop is over. -/
theorem promoteTo_promf {E : Env} {u : Unum} {es' fs' : Nat} (hes : es' ≤ esOf E u) (h : fsOf E u < fs')
    (hmax : fs' ≤ E.fsmax) : promoteTo E (promf E u) es' fs' = promoteTo E u es' fs' := by
  have hturns : fs' - fsOf E u = fs' - (fsOf E u + 1) + 1 := by omega
  rw [promoteTo_of_es_le hes, promoteTo_of_es_le (by rwa [esOf_promf]), fsOf_promf (by omega), hturns, times]

/-! ### The turns of `ppair` (41_tag.md R134) -/

section
variable {E : Env} {u v : Unum}

theorem ppair_swap (E : Env) (u v : Unum) : ppair E v u = (ppair E u v).swap := rfl

/-- The narrower exponent is promoted; the other unum's exponent does not see by how much it was narrower. -/
theorem ppair_prome (h : esOf E u < esOf E v) : ppair E u v = ppair E (prome E u) v := by
  have hes := esOf_le E v
  have hone := esOf_prome (E := E) (u := u) (by omega)
  rw [ppair, ppair, promoteTo_prome h hes, fsOf_prome, promoteTo_of_es_le (u := v) h.le,
    promoteTo_of_es_le (u := v) (by omega)]

/-- With one exponent size, the narrower fraction is promoted. -/
theorem ppair_promf (hes : esOf E u = esOf E v) (h : fsOf E u < fsOf E v) : ppair E u v = ppair E (promf E u) v := by
  have hfs := fsOf_le E v
  have hone := fsOf_promf (E := E) (u := u) (by omega)
  rw [ppair, ppair, promoteTo_promf hes.ge h hfs, promoteTo_of_le (u := v) hes.le h.le,
    promoteTo_of_le (u := v) (by rw [esOf_promf, hes]) (by omega)]

theorem ppair_of_same_tag (hes : esOf E u = esOf E v) (hfs : fsOf E u = fsOf E v) : ppair E u v = (u, v) := by
  rw [ppair, promoteTo_of_le hes.ge hfs.ge, promoteTo_of_le hes.le hfs.le]

/-- A turn of the left unum is, with the operands exchanged, a turn of the right one. -/
theorem ppair_right_of_left {u' : Unum} (h : ppair E v u = ppair E u' u) : ppair E u v = ppair E u u' := by
  rw [ppair_swap, h, ← ppair_swap]

end

end Sys2Proof.Machine
end

section
/-! PROOF. DTAG (41_tag.md R128): every field of a unum within the caps fits the TAG register, and O32. -/

namespace Sys2Proof.Machine

/-- The sizes of a unum within the caps of a legal build, in bits of the fields that hold them (10_state.md R35). -/
theorem State.sizes_fit_tag {s : State} (hwf : s.cfg.wf) (hcaps : s.envWithinCaps) (u : Unum) :
    fsOf s.env u < 2 ^ 12 ∧ esOf s.env u < 2 ^ 5 ∧ numbits s.env u < 2 ^ 12 := by
  obtain ⟨hessCap, hfssCap, -⟩ := hwf
  obtain ⟨hess, hfss⟩ := hcaps
  have hesmax : s.env.esmax ≤ 2 ^ 4 := Nat.pow_le_pow_right (by decide) (hess.trans hessCap)
  have hfsmax : s.env.fsmax ≤ 2 ^ 11 := Nat.pow_le_pow_right (by decide) (hfss.trans hfssCap)
  have hes := esOf_le s.env u
  have hfs := fsOf_le s.env u
  rw [numbits, Env.utagsize]
  omega

/-- The TAG register DTAG writes for `u` (41_tag.md R128). -/
def tagOf (E : Env) (u : Unum) : Tag :=
  ⟨BitVec.ofNat 12 (fsOf E u), BitVec.ofNat 5 (esOf E u), ubitOf E u, signOf E u, BitVec.ofNat 12 (numbits E u)⟩

theorem exec_dtag {s : State} (hv : s.env.v = true) (ra : UReg) :
    exec (.dtag ra) s = .next { s with
      tag := tagOf s.env (s.readU ra), fexp := expoOf s.env (s.readU ra), ffrac := fracOf s.env (s.readU ra) } :=
  State.needEnv_of_env hv _

/-- Settles O32. DTAG writes each size cut to its field's width; in a legal build nothing is cut off. -/
theorem dtagDecodesTheOperand : Obligations.DtagDecodesTheOperand := by
  unfold Obligations.DtagDecodesTheOperand
  refine ⟨by decide, fun s ra hv hwf hcaps => ?_⟩
  obtain ⟨hfs, hes, hnb⟩ := State.sizes_fit_tag hwf hcaps (s.readU ra)
  exact ⟨Laws.EncodeOpcode.dtag ra, tagOf s.env (s.readU ra), exec_dtag hv ra, Nat.mod_eq_of_lt hfs,
    Nat.mod_eq_of_lt hes, rfl, rfl, Nat.mod_eq_of_lt hnb⟩

end Sys2Proof.Machine
end

section
/-! PROOF. PROMF and DEMF (41_tag.md R130, R132): one equation per arm of each command, O34 and O36. -/

namespace Sys2Proof.Machine

/-! ### Fraction demotion (41_tag.md R132) -/

theorem demfStays_iff {E : Env} {u : Unum} : demfStays E u = true ↔ fsOf E u = 1 ∨ isSpecial E u = true := by
  simp [demfStays]

theorem demfLost_eq_testBit (E : Env) (u : Unum) : demfLost E u = (fracOf E u).testBit 0 := by
  rw [demfLost, Nat.testBit_zero, beq_eq_decide]

theorem demf_hasFields {E : Env} {u : Unum} (h : demfStays E u = false) :
    HasFields E (demf E u) (signOf E u) (expoOf E u) (fracOf E u / 2) (ubitOf E u || demfLost E u) (esOf E u)
      (fsOf E u - 1) := by
  have hfs1 : fsOf E u ≠ 1 := fun h1 => Bool.false_ne_true (h.symm.trans (demfStays_iff.2 (.inl h1)))
  have hpos := fsOf_pos E u
  have hle := fsOf_le E u
  have hfrac := fracOf_lt E u
  rw [← Nat.two_pow_pred_mul_two hpos] at hfrac
  rw [demf, h, if_neg Bool.false_ne_true]
  exact mk_hasFields E _ _ (by omega) (by omega) (esOf_pos E u) (esOf_le E u) (by omega) (expoOf_lt E u)

/-! ### The arms of PROMF (41_tag.md R130) -/

section
variable {s : State} (hv : s.env.v = true) {ra : UReg}
include hv

theorem exec_promf_of_inexact (hub : ubitOf s.env (s.readU ra) = true) (rd : UReg) :
    exec (.promf rd ra) s = .next (s.raise .operand) := by
  rw [exec, execPromf, State.needEnv_of_env hv, if_pos hub]

theorem exec_promf_of_exact (hcanon : s.allCanonical) (hub : ubitOf s.env (s.readU ra) = false) (rd : UReg) :
    exec (.promf rd ra) s = .next { s with
      u := s.u.set rd (promf s.env (s.readU ra)),
      status := { s.status with lim := fsOf s.env (s.readU ra) == s.env.fsmax } } := by
  have hpromf := (promf_keepsNumber (hcanon.1 ra) hub).canonical
  simp [exec, execPromf, State.needEnv_of_env hv, hub, State.writeU_of_canonical hpromf, State.setLim]

/-! ### The arms of DEMF (41_tag.md R132) -/

theorem exec_demf (hdemf : Canonical s.env (demf s.env (s.readU ra))) (rd : UReg) :
    exec (.demf rd ra) s = .next { s with
      u := s.u.set rd (demf s.env (s.readU ra)),
      status := { s.status with
        lim := demfStays s.env (s.readU ra),
        inex := !demfStays s.env (s.readU ra) && demfLost s.env (s.readU ra) } } := by
  simp [exec, execDemf, State.needEnv_of_env hv, State.writeU_of_canonical hdemf, State.setLim, State.setInex]

theorem exec_demf_of_stays (hcanon : s.allCanonical) (h : demfStays s.env (s.readU ra) = true) (rd : UReg) :
    exec (.demf rd ra) s = .next { s with
      u := s.u.set rd (s.readU ra), status := { s.status with lim := true, inex := false } } := by
  have hsame : demf s.env (s.readU ra) = s.readU ra := if_pos h
  have hdemf : Canonical s.env (demf s.env (s.readU ra)) := hsame.symm ▸ hcanon.1 ra
  rw [exec_demf hv hdemf, hsame, h, Bool.not_true, Bool.false_and]

theorem exec_demf_of_narrows (h : demfStays s.env (s.readU ra) = false) (rd : UReg) :
    exec (.demf rd ra) s = .next { s with
      u := s.u.set rd (demf s.env (s.readU ra)),
      status := { s.status with lim := false, inex := demfLost s.env (s.readU ra) } } := by
  obtain ⟨-, -, -, -, -, -, hdemf⟩ := demf_hasFields h
  rw [exec_demf hv hdemf, h, Bool.not_false, Bool.true_and]

end

/-! ### The obligations -/

/-- Settles O34. At the maximum fraction size `promf` is the identity; below it the fields are those of the rule and
the value is kept. -/
theorem promfWidensTheFraction : Obligations.PromfWidensTheFraction := by
  unfold Obligations.PromfWidensTheFraction
  intro s rd ra hv hcanon E u
  refine ⟨Laws.EncodeOpcode.promf rd ra, fun hub => exec_promf_of_inexact hv hub rd, fun hub hmax => ?stays,
    fun hub hfs => ⟨promf E u, ?widens, promf_hasFields hfs, u2r_promf E u⟩⟩
  case stays =>
    have hlim : (fsOf E u == E.fsmax) = true := beq_iff_eq.2 hmax
    rw [exec_promf_of_exact hv hcanon hub, promf_of_max hmax, hlim]
  case widens =>
    have hlim : (fsOf E u == E.fsmax) = false := beq_eq_false_iff_ne.2 hfs
    rw [exec_promf_of_exact hv hcanon hub, hlim]

/-- Settles O36. Where DEMF narrows, the bit lost is bit 0 of the fraction. -/
theorem demfNarrowsTheFraction : Obligations.DemfNarrowsTheFraction := by
  unfold Obligations.DemfNarrowsTheFraction
  intro s rd ra hv hcanon E u
  refine ⟨Laws.EncodeOpcode.demf rd ra, fun h => exec_demf_of_stays hv hcanon (demfStays_iff.2 h) rd,
    fun hfs hsp => ?_⟩
  have hnarrows : demfStays E u = false := by simp [demfStays, hfs, hsp]
  rw [← demfLost_eq_testBit]
  exact ⟨demf E u, exec_demf_of_narrows hv hnarrows rd, demf_hasFields hnarrows⟩

end Sys2Proof.Machine
end

section
/-! PROOF. PROMP (41_tag.md R134): one equation per arm of the command, and O38. -/

namespace Sys2Proof.Machine

section
variable {s : State} (hv : s.env.v = true) {rd ra : UReg}
include hv

theorem exec_promp_of_inexact (h : ubitOf s.env (s.readU rd) = true ∨ ubitOf s.env (s.readU ra) = true) :
    exec (.promp rd ra) s = .next (s.raise .operand) := by
  rw [exec, execPromp, State.needEnv_of_env hv, if_pos (Bool.or_eq_true_iff.2 h)]

theorem exec_promp_of_exact (hexactU : ubitOf s.env (s.readU rd) = false) (hexactV : ubitOf s.env (s.readU ra) = false)
    {x y : Unum} (hpair : ppair s.env (s.readU rd) (s.readU ra) = (x, y)) (hx : Canonical s.env x)
    (hy : Canonical s.env y) :
    exec (.promp rd ra) s = .next { s with
      u := (s.u.set rd x).set ra y,
      status := { s.status with lim := decide (x = s.readU rd ∧ y = s.readU ra) } } := by
  simp [exec, execPromp, State.needEnv_of_env hv, hexactU, hexactV, hpair, State.writeU, canon_of_canonical hx,
    canon_of_canonical hy, State.setLim, beq_eq_decide]

end

/-- Settles O38. Each unum is promoted to the other's tag: the loops turn one size at a time, and every turn keeps the
number. -/
theorem prompBringsBothToOneTag : Obligations.PrompBringsBothToOneTag := by
  unfold Obligations.PrompBringsBothToOneTag
  refine ⟨fun E u v _ _ _ _ => ⟨ppair_prome, fun h => ppair_right_of_left (ppair_prome h), ppair_promf,
    fun hes h => ppair_right_of_left (ppair_promf hes.symm h), ppair_of_same_tag⟩, ?_⟩
  intro s rd ra hv hcanon E u v
  refine ⟨Laws.EncodeOpcode.promp rd ra, exec_promp_of_inexact hv, fun hexactU hexactV => ?_⟩
  intro x y
  have hkeepsU : KeepsNumber E u x := promoteTo_keepsNumber (hcanon.1 rd) hexactU _ _
  have hkeepsV : KeepsNumber E v y := promoteTo_keepsNumber (hcanon.1 ra) hexactV _ _
  have hesX : esOf E x = max (esOf E u) (esOf E v) := esOf_promoteTo (esOf_le E v) u _
  have hesY : esOf E y = max (esOf E v) (esOf E u) := esOf_promoteTo (esOf_le E u) v _
  have hfsX : fsOf E x = max (fsOf E u) (fsOf E v) := fsOf_promoteTo (fsOf_le E v) u _
  have hfsY : fsOf E y = max (fsOf E v) (fsOf E u) := fsOf_promoteTo (fsOf_le E u) v _
  have hsame (h : rd = ra) : x = y := by
    have huv : u = v := congrArg s.readU h
    simp only [x, y, ppair, huv]
  exact ⟨exec_promp_of_exact hv hexactU hexactV rfl hkeepsU.canonical hkeepsV.canonical, hsame, hkeepsU.canonical,
    hkeepsV.canonical, hkeepsU.ubit, hkeepsV.ubit, hesX, by rw [hesY, hesX, max_comm], hfsX, by rw [hfsY, hfsX, max_comm], hkeepsU.sign,
    hkeepsV.sign, hkeepsU.value, hkeepsV.value⟩

end Sys2Proof.Machine
end

section
/-! PROOF. Exact numbers as rationals (10_state.md R27): the order they are compared in, their sign, and the
normalised encoding, which keeps the number and has an odd significand. -/

namespace Sys2Proof.Machine

/-! ### The order and the sign -/

/-- A number is a multiple of every unit up to its exponent. -/
theorem Dyad.toRat_eq_scaled (x : Dyad) {m : Int} (h : m ≤ x.exp) : x.toRat = x.scaled m * 2 ^ m := by
  obtain ⟨k, hk⟩ := Int.le.dest h
  rw [Dyad.toRat, Dyad.scaled, ← hk, add_sub_cancel_left, Int.toNat_natCast, zpow_add₀ two_ne_zero, zpow_natCast]
  cases x.sg <;> simp <;> ring

/-- Comparison over the smaller exponent is comparison of the numbers. -/
theorem Dyad.cmp_eq_compare_toRat (x y : Dyad) : x.cmp y = compare x.toRat y.toRat := by
  have hunit : (0 : ℚ) < 2 ^ min x.exp y.exp := by positivity
  have hmono : StrictMono fun z : Int => (z : ℚ) * 2 ^ min x.exp y.exp :=
    fun _ _ h => mul_lt_mul_of_pos_right (Int.cast_lt.2 h) hunit
  rw [Dyad.cmp, x.toRat_eq_scaled (min_le_left x.exp y.exp), y.toRat_eq_scaled (min_le_right x.exp y.exp),
    ← cmp_eq_compare, ← cmp_eq_compare]
  exact (hmono.cmp_map_eq _ _).symm

theorem Dyad.abs_toRat (x : Dyad) : |x.toRat| = x.man * 2 ^ x.exp := by
  have hmag : (0 : ℚ) ≤ x.man * 2 ^ x.exp := by positivity
  rw [Dyad.toRat]
  cases x.sg
  · simp
  · simp [abs_mul]

theorem Dyad.toRat_of_nonneg (m : Nat) (e : Int) : Dyad.toRat ⟨false, m, e⟩ = m * 2 ^ e := by simp [Dyad.toRat]

theorem Dyad.toRat_eq_zero_iff {x : Dyad} : x.toRat = 0 ↔ x.man = 0 := by
  rw [← abs_eq_zero, Dyad.abs_toRat]
  simp [zpow_ne_zero]

theorem Dyad.isNeg_iff {x : Dyad} : x.isNeg = true ↔ x.toRat < 0 := by
  have hpow : (0 : ℚ) < 2 ^ x.exp := by positivity
  rcases Nat.eq_zero_or_pos x.man with hz | hpos
  · simp [Dyad.isNeg, Dyad.toRat, hz]
  · have hmag : (0 : ℚ) < x.man * 2 ^ x.exp := by positivity
    cases hs : x.sg
    · simp [Dyad.isNeg, Dyad.toRat, hs, hmag.le]
    · simp [Dyad.isNeg, Dyad.toRat, hs, hpos.ne', hmag]

theorem Dyad.isNeg_eq_decide (x : Dyad) : x.isNeg = decide (x.toRat < 0) := by
  rw [Bool.eq_iff_iff, decide_eq_true_iff, Dyad.isNeg_iff]

/-! ### The normalised encoding -/

/-- What removing zeros gives: the significand less some of its zeros, the exponent raised by as many, and no zero
left where the count allowed for them. -/
theorem oddPart_spec (k m : Nat) (e : Int) :
    ∃ j : Nat, m = (oddPart k m e).1 * 2 ^ j ∧ (oddPart k m e).2 = e + j ∧
      (m ≠ 0 → m < 2 ^ (k + 1) → (oddPart k m e).1 % 2 = 1) := by
  induction k generalizing m e with
  | zero => exact ⟨0, by simp [oddPart], by simp [oddPart], fun h0 h1 => by simp only [oddPart]; omega⟩
  | succ k ih =>
    by_cases heven : m % 2 = 0
    · obtain ⟨j, hm, he, hodd⟩ := ih (m / 2) (e + 1)
      rw [oddPart, if_pos heven]
      refine ⟨j + 1, ?_, by rw [he]; push_cast; ring, fun h0 h1 => hodd (by omega) (by rw [pow_succ] at h1; omega)⟩
      rw [pow_succ, ← mul_assoc, ← hm]
      omega
    · rw [oddPart, if_neg heven]
      exact ⟨0, by simp, by simp, fun _ _ => by omega⟩

/-- A nonzero number's normalised encoding: the significand less all its zeros. -/
theorem Dyad.norm_spec {x : Dyad} (h : x.man ≠ 0) :
    ∃ j : Nat, x.man = x.norm.man * 2 ^ j ∧ x.norm.exp = x.exp + j ∧ x.norm.sg = x.sg ∧ x.norm.man % 2 = 1 := by
  obtain ⟨j, hm, he, hodd⟩ := oddPart_spec x.man.log2 x.man x.exp
  rw [Dyad.norm, if_neg h]
  exact ⟨j, hm, he, rfl, hodd h Nat.lt_log2_self⟩

theorem Dyad.norm_of_man_eq_zero {x : Dyad} (h : x.man = 0) : x.norm = Dyad.zero := if_pos h

/-- A number with an odd significand is its own normalised encoding. -/
theorem Dyad.norm_of_odd {x : Dyad} (h : x.man % 2 = 1) : x.norm = x := by
  have hpart : oddPart x.man.log2 x.man x.exp = (x.man, x.exp) := by
    cases x.man.log2 with
    | zero => rfl
    | succ k => rw [oddPart, if_neg (by omega)]
  rw [Dyad.norm, if_neg (by omega), hpart]

@[simp] theorem Dyad.norm_norm (x : Dyad) : x.norm.norm = x.norm := by
  by_cases h : x.man = 0
  · rw [Dyad.norm_of_man_eq_zero h]
    rfl
  · obtain ⟨-, -, -, -, hodd⟩ := Dyad.norm_spec h
    exact Dyad.norm_of_odd hodd

@[simp] theorem Dyad.toRat_norm (x : Dyad) : x.norm.toRat = x.toRat := by
  by_cases h : x.man = 0
  · rw [Dyad.norm_of_man_eq_zero h, Dyad.toRat_eq_zero_iff.2 h, Dyad.toRat_eq_zero_iff.2 rfl]
  · obtain ⟨j, hm, he, hs, -⟩ := Dyad.norm_spec h
    rw [← Dyad.toRat_shift x.norm j, hs, ← hm, he, add_sub_cancel_right]

/-- The sign plays no part in the significand and exponent of the normalised encoding. -/
theorem Dyad.norm_signed_fields (x : Dyad) (s : Bool) :
    (x.signed s).norm.man = x.norm.man ∧ (x.signed s).norm.exp = x.norm.exp := by
  cases s
  · exact ⟨rfl, rfl⟩
  · by_cases h : x.man = 0 <;> simp [Dyad.signed, Dyad.neg, Dyad.norm, h]

end Sys2Proof.Machine
end

section
/-! PROOF. U2G and B2G (42_pack.md R153 to R155): the magnitude of a unum of a legal build fits a G register, so that
the interval of a unum or bound is written as it is; one equation per command, and O43. -/

namespace Sys2Proof.Machine

/-! ### Values in the widths of a G register (00_scope.md R5, 10_state.md R31) -/

section
variable {c : Config}

/-- A number whose significand, unit and leading bit are in the register's range is in its widths when normalised. -/
theorem Dyad.norm_fits {x : Dyad} (hman : x.man < 2 ^ c.gmw) (hlo : -(2 ^ (c.gew - 1)) ≤ x.exp)
    (hhi : x.exp + x.man.log2 < 2 ^ (c.gew - 1)) : x.norm.man < 2 ^ c.gmw ∧ expFits c x.norm.exp = true := by
  rw [expFits_iff]
  have hrange : (0 : Int) < 2 ^ (c.gew - 1) := by positivity
  by_cases h : x.man = 0
  · rw [Dyad.norm_of_man_eq_zero h]
    exact ⟨Nat.two_pow_pos _, by simp only [Dyad.zero]; omega, hrange⟩
  · obtain ⟨j, hm, he, -, hodd⟩ := Dyad.norm_spec h
    have hlog : x.man.log2 = x.norm.man.log2 + j := by
      rw [hm]
      exact log2_shift (by omega) j
    have hle : x.norm.man ≤ x.man := by
      rw [hm]
      exact Nat.le_mul_of_pos_right _ (Nat.two_pow_pos j)
    omega

theorem bias_eq (es : Nat) : bias es = ((2 ^ (es - 1) : Nat) : Int) - 1 := by simp [bias]

/-- Every payload of a legal build's tags has a magnitude in the register's widths. -/
theorem magOf_fits (hwf : c.wf) {e f es fs : Nat} (hes1 : 1 ≤ es) (hes : es ≤ 2 ^ c.essCap)
    (hfs1 : 1 ≤ fs) (hfs : fs ≤ 2 ^ c.fssCap) (he : e < 2 ^ es) (hf : f < 2 ^ fs) :
    (magOf e f es fs).norm.man < 2 ^ c.gmw ∧ expFits c (magOf e f es fs).norm.exp = true := by
  obtain ⟨-, -, hgmw, -, hlow, hhigh, -⟩ := hwf
  have hscale : 2 ^ (es - 1) ≤ 2 ^ (2 ^ c.essCap - 1) := Nat.pow_le_pow_right two_pos (by omega)
  have hwidth : 2 ^ (fs + 1) ≤ 2 ^ c.gmw := Nat.pow_le_pow_right two_pos (by omega)
  have hsplit := Nat.two_pow_pred_mul_two hes1
  have hbias := bias_eq es
  have hcast : (2 : Int) ^ (c.gew - 1) = ((2 ^ (c.gew - 1) : Nat) : Int) := by simp
  have hone := Nat.two_pow_pos (es - 1)
  rw [pow_succ] at hwidth
  by_cases he0 : e = 0
  · have hlog : f.log2 < fs := by
      rcases Nat.eq_zero_or_pos f with rfl | hpos
      · exact hfs1
      · exact (Nat.log2_lt hpos.ne').2 hf
    rw [he0, magOf_subnormal, Dyad.norm_norm]
    exact Dyad.norm_fits (by simp only; omega) (by simp only [hbias, hcast]; omega)
      (by simp only [hbias, hcast]; omega)
  · have hlog : (2 ^ fs + f).log2 = fs := (Nat.log2_eq_iff (by omega)).2 ⟨by omega, by rw [pow_succ]; omega⟩
    rw [magOf_normal he0, Dyad.norm_norm]
    exact Dyad.norm_fits (by simp only; omega) (by simp only [hbias, hcast]; omega)
      (by simp only [hbias, hcast, hlog]; omega)

/-- The endpoint is written to a G register as it is: normalised, and in the register's widths (10_state.md R27). -/
def Gnum.AsWritten (c : Config) (p : Gnum) : Prop := p.norm = p ∧ Storable c p

/-- The interval is NaN as the unit writes it, or both its ends are written as they are. -/
def Gbnd.AsWritten (c : Config) (g : Gbnd) : Prop :=
  g = nanG ∨ g.nan = false ∧ g.l.AsWritten c ∧ g.r.AsWritten c

theorem expFits_zero (c : Config) : expFits c 0 = true := by simp [expFits_iff]

theorem Gbnd.AsWritten.fit_norm {g : Gbnd} (h : g.AsWritten c) : fitGbnd c g.norm = g := by
  obtain rfl | ⟨hnan, ⟨hl, hsl⟩, hr, hsr⟩ := h
  · have hend : Storable c nanG.l := ⟨Nat.two_pow_pos _, expFits_zero c⟩
    simp only [Gbnd.norm, fitGbnd, nanG, if_true, Gbnd.mk.injEq, true_and]
    exact ⟨fitGnum_of_storable hend, fitGnum_of_storable hend⟩
  · rw [Gbnd.norm, hnan, if_neg Bool.false_ne_true, fitGbnd, hl, hr, fitGnum_of_storable hsl, fitGnum_of_storable hsr,
      ← hnan]

theorem State.storeG_of_asWritten {s : State} {g : Gbnd} (h : g.AsWritten s.cfg) (i : GReg) :
    s.storeG i g = { s with g := s.g.set i g } := by
  rw [State.storeG, h.fit_norm, State.writeG]

theorem fin_norm (x : Dyad) (o : Bool) : (fin x o).norm = fin x o := by simp [Gnum.norm, fin]

theorem infOf_asWritten (hwf : c.wf) (s o : Bool) : (infOf s o).AsWritten c := by
  obtain ⟨-, -, hgmw, -⟩ := hwf
  have hcap := Nat.two_pow_pos c.fssCap
  have hman : 1 < 2 ^ c.gmw := Nat.one_lt_two_pow (by omega)
  cases s
  · exact ⟨rfl, hman, expFits_zero c⟩
  · exact ⟨rfl, hman, expFits_zero c⟩

end

/-! ### The interval of a unum and of a bound (42_pack.md R152, R153) -/

theorem sliver_nan (neg : Bool) (near : Dyad) (far : Option Dyad) : (sliver neg near far).nan = false := by
  cases neg <;> rfl

theorem u2g_nan (E : Env) (u : Unum) : (u2g E u).nan = isNan E u := by
  unfold u2g
  split
  next h => exact h.symm
  next h =>
    rw [Bool.eq_false_iff.2 h]
    split_ifs
    · rfl
    · rfl
    · exact sliver_nan _ _ _
    · exact sliver_nan _ _ _

section
variable {s : State} (hwf : s.cfg.wf) (hcaps : s.envWithinCaps)
include hwf hcaps

/-- A signed magnitude of a unum is written as it is. -/
theorem State.fin_mag_asWritten (u : Unum) (neg o : Bool) :
    (fin ((mag s.env u).signed neg) o).AsWritten s.cfg := by
  obtain ⟨hess, hfss⟩ := hcaps
  have hes : esOf s.env u ≤ 2 ^ s.cfg.essCap := (esOf_le _ u).trans (Nat.pow_le_pow_right two_pos hess)
  have hfs : fsOf s.env u ≤ 2 ^ s.cfg.fssCap := (fsOf_le _ u).trans (Nat.pow_le_pow_right two_pos hfss)
  obtain ⟨hman, hexp⟩ := (mag s.env u).norm_signed_fields neg
  have hfits := magOf_fits hwf (esOf_pos _ u) hes (fsOf_pos _ u) hfs (expoOf_lt _ u) (fracOf_lt _ u)
  refine ⟨fin_norm _ _, ?_⟩
  simp only [Storable, fin, hman, hexp]
  exact hfits

theorem State.u2r_asWritten (u : Unum) : (u2r s.env u).AsWritten s.cfg := by
  unfold u2r
  split
  · exact infOf_asWritten hwf _ _
  · exact State.fin_mag_asWritten hwf hcaps u _ _

theorem State.sliver_asWritten (neg : Bool) (u : Unum) {far : Option Dyad}
    (hfar : far = none ∨ ∃ v, far = some (mag s.env v)) : (sliver neg (mag s.env u) far).AsWritten s.cfg := by
  have hnear := State.fin_mag_asWritten hwf hcaps u neg true
  obtain rfl | ⟨v, rfl⟩ := hfar
  · have hinf := infOf_asWritten hwf neg true
    cases neg
    · exact .inr ⟨rfl, hnear, hinf⟩
    · exact .inr ⟨rfl, hinf, hnear⟩
  · have hfar := State.fin_mag_asWritten hwf hcaps v neg true
    cases neg
    · exact .inr ⟨rfl, hnear, hfar⟩
    · exact .inr ⟨rfl, hfar, hnear⟩

theorem State.u2g_asWritten (u : Unum) : (u2g s.env u).AsWritten s.cfg := by
  have hpoint : (point (u2r s.env u)).AsWritten s.cfg :=
    .inr ⟨rfl, State.u2r_asWritten hwf hcaps u, State.u2r_asWritten hwf hcaps u⟩
  unfold u2g
  split
  next => exact .inl rfl
  next =>
    split
    next => exact hpoint
    next =>
      split
      next => exact hpoint
      next =>
        split
        next => exact State.sliver_asWritten hwf hcaps _ u (.inl rfl)
        next => exact State.sliver_asWritten hwf hcaps _ u (.inr ⟨_, rfl⟩)

end

section
variable {E : Env} {b : Ubound}

theorem b2g_of_single (hp : b.p = false) : b2g E b = u2g E b.l := if_pos hp

theorem b2g_of_nan (hp : b.p = true) (h : (u2g E b.l).nan = true ∨ (u2g E b.r).nan = true) : b2g E b = nanG := by
  rw [b2g, if_neg (by simp [hp]), if_pos (Bool.or_eq_true_iff.2 h)]

theorem b2g_of_pair (hp : b.p = true) (hl : (u2g E b.l).nan = false) (hr : (u2g E b.r).nan = false) :
    b2g E b = { nan := false, l := (u2g E b.l).l, r := (u2g E b.r).r } := by
  rw [b2g, if_neg (by simp [hp]), if_neg (by simp [hl, hr])]

end

theorem State.b2g_asWritten {s : State} (hwf : s.cfg.wf) (hcaps : s.envWithinCaps) (b : Ubound) :
    (b2g s.env b).AsWritten s.cfg := by
  have hu := State.u2g_asWritten hwf hcaps
  cases hp : b.p
  · rw [b2g_of_single hp]
    exact hu b.l
  · obtain hl | ⟨hl, hleft, -⟩ := hu b.l
    · rw [b2g_of_nan hp (.inl (by rw [hl]; rfl))]
      exact .inl rfl
    · obtain hr | ⟨hr, -, hright⟩ := hu b.r
      · rw [b2g_of_nan hp (.inr (by rw [hr]; rfl))]
        exact .inl rfl
      · rw [b2g_of_pair hp hl hr]
        exact .inr ⟨rfl, hleft, hright⟩

/-! ### The commands -/

section
variable {s : State} (hv : s.env.v = true) (hwf : s.cfg.wf) (hcaps : s.envWithinCaps)
include hv hwf hcaps

theorem exec_u2g (rd : GReg) (ra : UReg) :
    exec (.u2g rd ra) s = .next { s with
      g := s.g.set rd (u2g s.env (s.readU ra)),
      status := { s.status with nanf := isNan s.env (s.readU ra) } } := by
  have hstore := State.storeG_of_asWritten (State.u2g_asWritten hwf hcaps (s.readU ra)) rd
  simp only [exec, execU2g, State.needEnv_of_env hv, hstore, u2g_nan, State.setNanf]

theorem exec_b2g (rd : GReg) (ra : BReg) :
    exec (.b2g rd ra) s = .next { s with
      g := s.g.set rd (b2g s.env (s.readB ra)),
      status := { s.status with nanf := (b2g s.env (s.readB ra)).nan } } := by
  have hstore := State.storeG_of_asWritten (State.b2g_asWritten hwf hcaps (s.readB ra)) rd
  simp only [exec, execB2g, State.needEnv_of_env hv, hstore, State.setNanf]

end

/-- Settles O43. The bounds 00_scope.md R5 puts on GMW and GEW hold every magnitude of the environment, so no
interval is changed by the write. -/
theorem unpackCommands : Obligations.UnpackCommands := by
  unfold Obligations.UnpackCommands
  rintro s ⟨hwf, hcaps, -⟩ hv
  refine ⟨fun rd ra => ⟨Laws.EncodeOpcode.u2g rd ra, exec_u2g hv hwf hcaps rd ra⟩,
    fun rd ra => ⟨Laws.EncodeOpcode.b2g rd ra, fun hp => ?single, fun hp hnan => ?nan, fun hp hl hr => ?pair⟩⟩
  case single => rw [exec_b2g hv hwf hcaps, b2g_of_single hp]
  case nan => rw [exec_b2g hv hwf hcaps, b2g_of_nan hp hnan]; rfl
  case pair => rw [exec_b2g hv hwf hcaps, b2g_of_pair hp hl hr]

end Sys2Proof.Machine
end

section
/-! PROOF. Encoding a real (42_pack.md R159 to R161): the order of the cases as comparisons of rationals, the searches
of the rule (least exponent size, stripped zeros, rounding up) against the model's closed forms, the fields each case
gives, and O44. -/

namespace Sys2Proof.Machine

/-! ### The order of the cases (42_pack.md R159, R161) -/

theorem Dyad.norm_abs_toRat (x : Dyad) : x.norm.abs.toRat = |x.toRat| := by
  rw [Dyad.abs, Dyad.toRat_of_nonneg, ← Dyad.abs_toRat, Dyad.toRat_norm]

theorem Dyad.pow2_toRat (k : Int) : (Dyad.pow2 k).toRat = 2 ^ k := by simp [Dyad.pow2, Dyad.toRat]

theorem maxreal_toRat (E : Env) : (maxreal E).toRat = 2 ^ bigScale E * (2 - 2 ^ (1 - (E.fsmax : Int))) := by
  have hones : ((ones E.fsmax : Nat) : ℚ) = 2 ^ E.fsmax - 1 := by
    rw [ones, Nat.cast_sub Nat.one_le_two_pow]
    simp
  rw [maxreal, Dyad.toRat_norm, Dyad.toRat_of_nonneg, hones, zpow_sub₀ two_ne_zero, zpow_sub₀ two_ne_zero,
    zpow_add₀ two_ne_zero, zpow_natCast]
  field_simp

theorem maxreal_lt (E : Env) : (maxreal E).toRat < 2 ^ (bigScale E + 1) := by
  have hpow : (0 : ℚ) < 2 ^ bigScale E := by positivity
  have hulp : (0 : ℚ) < 2 ^ (1 - (E.fsmax : Int)) := by positivity
  rw [maxreal_toRat, zpow_add_one₀ two_ne_zero]
  nlinarith

theorem maxreal_nonneg (E : Env) : 0 ≤ (maxreal E).toRat := by
  rw [maxreal, Dyad.toRat_norm, Dyad.toRat_of_nonneg]
  positivity

section
variable {E : Env} {x : Dyad}

theorem r2u_of_zero (h : |x.toRat| = 0) : r2u E x = 0 := by
  have hzero : x.norm.abs.isZero = true := by
    simpa [Dyad.isZero, ← Dyad.toRat_eq_zero_iff, Dyad.norm_abs_toRat] using h
  simp [r2u, hzero, mk]

theorem isZero_norm_abs_of_pos (h : 0 < |x.toRat|) : x.norm.abs.isZero = false := by
  rw [Bool.eq_false_iff]
  simpa [Dyad.isZero, ← Dyad.toRat_eq_zero_iff, Dyad.norm_abs_toRat] using h

theorem cmp_norm_abs_eq_gt {y : Dyad} : x.norm.abs.cmp y = .gt ↔ y.toRat < |x.toRat| := by
  rw [Dyad.cmp_eq_compare_toRat, Dyad.norm_abs_toRat, compare_gt_iff_gt]

theorem cmp_norm_abs_eq_lt {y : Dyad} : x.norm.abs.cmp y = .lt ↔ |x.toRat| < y.toRat := by
  rw [Dyad.cmp_eq_compare_toRat, Dyad.norm_abs_toRat, compare_lt_iff_lt]

theorem r2u_of_gt_maxreal (h : (maxreal E).toRat < |x.toRat|) : r2u E x = openInfPattern E x.isNeg := by
  have hpos := isZero_norm_abs_of_pos ((maxreal_nonneg E).trans_lt h)
  simp [r2u, hpos, cmp_norm_abs_eq_gt, h]

section
variable (hpos : 0 < |x.toRat|) (hmax : |x.toRat| ≤ (maxreal E).toRat)
include hpos hmax

theorem r2u_of_lt_smallsub (h : |x.toRat| < 2 ^ smallsubExp E) : r2u E x = openZeroPattern E x.isNeg := by
  simp [r2u, isZero_norm_abs_of_pos hpos, cmp_norm_abs_eq_gt, cmp_norm_abs_eq_lt, Dyad.pow2_toRat, hmax.not_gt, h]

theorem r2u_of_lt_smallnorm (hsub : 2 ^ smallsubExp E ≤ |x.toRat|) (h : |x.toRat| < 2 ^ (2 - bigScale E)) :
    r2u E x = encodeSubnormal E x.isNeg x.norm.abs := by
  simp [r2u, isZero_norm_abs_of_pos hpos, cmp_norm_abs_eq_gt, cmp_norm_abs_eq_lt, smallnorm, Dyad.pow2_toRat,
    hmax.not_gt, hsub.not_gt, h]

end

theorem smallsub_le_smallnorm (E : Env) : (2 : ℚ) ^ smallsubExp E ≤ 2 ^ (2 - bigScale E) :=
  zpow_le_zpow_right₀ one_le_two (by rw [smallsubExp]; omega)

section
variable (hnorm : 2 ^ (2 - bigScale E) ≤ |x.toRat|) (hmax : |x.toRat| ≤ (maxreal E).toRat)
include hnorm hmax

/-- Cases 5a to 5c, on the normalised significand and the scale. -/
theorem r2u_of_normal : r2u E x =
    match (if x.norm.man.log2 = 0 then subnormalPower E x.norm.scale else none) with
    | some k => mk E x.isNeg 0 1 false (k + 1) 1
    | none =>
      if x.norm.man.log2 ≤ E.fsmax then encodeExact E x.isNeg x.norm.man x.norm.man.log2 x.norm.scale
      else encodeInexact E x.isNeg x.norm.man x.norm.man.log2 x.norm.scale := by
  have hsmall : (0 : ℚ) < 2 ^ (2 - bigScale E) := by positivity
  have hsub := (smallsub_le_smallnorm E).trans hnorm
  have hzero := isZero_norm_abs_of_pos (hsmall.trans_le hnorm)
  simp only [r2u, hzero, cmp_norm_abs_eq_gt, cmp_norm_abs_eq_lt, beq_iff_eq, smallnorm, Dyad.pow2_toRat, hmax.not_gt,
    hsub.not_gt, hnorm.not_gt, if_false, Bool.false_eq_true] <;> rfl

end

end

/-! ### The scale of a number and the least exponent size that holds it (42_pack.md R160) -/

theorem Dyad.abs_toRat_norm (x : Dyad) : |x.toRat| = x.norm.man * 2 ^ x.norm.exp := by
  rw [← Dyad.toRat_norm, Dyad.abs_toRat]

/-- The magnitude is its significand, as a number from 1 up to 2, at its scale. -/
theorem Dyad.abs_toRat_eq_significand (x : Dyad) :
    |x.toRat| = (x.norm.man : ℚ) / 2 ^ x.norm.man.log2 * 2 ^ x.norm.scale := by
  rw [x.abs_toRat_norm, Dyad.scale, zpow_add₀ two_ne_zero, zpow_natCast]
  field_simp

theorem one_le_significand {m : Nat} (h : m ≠ 0) : (1 : ℚ) ≤ (m : ℚ) / 2 ^ m.log2 := by
  rw [one_le_div (by positivity)]
  exact_mod_cast Nat.log2_self_le h

theorem significand_lt_two (m : Nat) : (m : ℚ) / 2 ^ m.log2 < 2 := by
  have hlt : m < 2 ^ m.log2 * 2 := by
    rw [← pow_succ]
    exact Nat.lt_log2_self
  rw [div_lt_iff₀ (by positivity), mul_comm]
  exact_mod_cast hlt

theorem Dyad.two_zpow_scale_le {x : Dyad} (h : x.norm.man ≠ 0) : 2 ^ x.norm.scale ≤ |x.toRat| := by
  rw [x.abs_toRat_eq_significand]
  exact le_mul_of_one_le_left (by positivity) (one_le_significand h)

theorem Dyad.lt_two_zpow_scale (x : Dyad) : |x.toRat| < 2 ^ (x.norm.scale + 1) := by
  rw [x.abs_toRat_eq_significand, zpow_add_one₀ two_ne_zero, mul_comm]
  exact mul_lt_mul_of_pos_left (significand_lt_two _) (by positivity)

/-- Powers of two that enclose one number in one interval have one exponent. -/
theorem le_of_two_zpow_le {a : ℚ} {i j : Int} (hi : 2 ^ i ≤ a) (hj : a < 2 ^ (j + 1)) : i ≤ j := by
  have hlt : (2 : ℚ) ^ i < 2 ^ (j + 1) := hi.trans_lt hj
  rw [zpow_lt_zpow_iff_right₀ one_lt_two] at hlt
  omega

/-- `es` is the least exponent size that holds the scale `c` (42_pack.md R160). -/
def LeastSize (es : Nat) (c : Int) : Prop :=
  1 ≤ es ∧ 2 - 2 ^ (es - 1) ≤ c ∧ c ≤ 2 ^ (es - 1) ∧
    ∀ es', 1 ≤ es' → es' < es → ¬ ((2 : Int) - 2 ^ (es' - 1) ≤ c ∧ c ≤ 2 ^ (es' - 1))

theorem LeastSize.le_of_holds {es es' : Nat} {c : Int} (h : LeastSize es c) (hpos : 1 ≤ es')
    (hlo : 2 - 2 ^ (es' - 1) ≤ c) (hhi : c ≤ 2 ^ (es' - 1)) : es ≤ es' := by
  obtain ⟨-, -, -, hleast⟩ := h
  exact Nat.le_of_not_lt fun hlt => hleast es' hpos hlt ⟨hlo, hhi⟩

theorem LeastSize.unique {es es' : Nat} {c : Int} (h : LeastSize es c) (h' : LeastSize es' c) : es = es' := by
  obtain ⟨hpos, hlo, hhi, -⟩ := id h
  obtain ⟨hpos', hlo', hhi', -⟩ := id h'
  exact le_antisymm (h.le_of_holds hpos' hlo' hhi') (h'.le_of_holds hpos hlo hhi)

theorem scaleFits_iff {es : Nat} {c : Int} : scaleFits es c = true ↔ 2 - 2 ^ (es - 1) ≤ c ∧ c ≤ 2 ^ (es - 1) := by
  simp [scaleFits]

/-- The search finds the first size that holds the scale, if the last size it looks at does. -/
theorem esminFrom_spec {k es : Nat} {c : Int} (h : scaleFits (es + k) c = true) :
    es ≤ esminFrom k es c ∧ scaleFits (esminFrom k es c) c = true ∧
      ∀ es', es ≤ es' → es' < esminFrom k es c → scaleFits es' c = false := by
  induction k generalizing es with
  | zero => exact ⟨le_refl es, h, fun es' h1 h2 => absurd h1 (Nat.not_le_of_lt h2)⟩
  | succ k ih =>
    rw [esminFrom]
    split
    next hfits => exact ⟨le_refl es, hfits, fun es' h1 h2 => absurd h1 (Nat.not_le_of_lt h2)⟩
    next hnot =>
      obtain ⟨hle, hfits, hfirst⟩ := ih (es := es + 1) (by rwa [Nat.add_right_comm])
      refine ⟨by omega, hfits, fun es' h1 h2 => ?_⟩
      obtain rfl | hlt := Nat.eq_or_lt_of_le h1
      · simpa using hnot
      · exact hfirst es' hlt h2

theorem esmin_leastSize {E : Env} {c : Int} (hlo : 2 - bigScale E ≤ c) (hhi : c ≤ bigScale E) :
    LeastSize (esmin E c) c := by
  have hem := Nat.two_pow_pos E.ess.toNat
  have hlast : 1 + (E.esmax - 1) = E.esmax := Nat.add_sub_cancel' hem
  have hmax : scaleFits (1 + (E.esmax - 1)) c = true := by
    rw [hlast, scaleFits_iff]
    exact ⟨hlo, hhi⟩
  obtain ⟨hpos, hfits, hfirst⟩ := esminFrom_spec hmax
  obtain ⟨h1, h2⟩ := scaleFits_iff.1 hfits
  refine ⟨hpos, h1, h2, fun es' hpos' hlt hholds => ?_⟩
  have hno := hfirst es' hpos' hlt
  rw [scaleFits_iff.2 hholds] at hno
  contradiction

theorem LeastSize.le_esmax {E : Env} {es : Nat} {c : Int} (h : LeastSize es c) (hlo : 2 - bigScale E ≤ c)
    (hhi : c ≤ bigScale E) : es ≤ E.esmax :=
  h.le_of_holds (Nat.two_pow_pos _) hlo hhi

/-- The biased exponent of a scale the size holds is that of a normal number. -/
theorem LeastSize.biased {es : Nat} {c : Int} (h : LeastSize es c) :
    0 < (c + bias es).toNat ∧ (c + bias es).toNat < 2 ^ es ∧ ((c + bias es).toNat : Int) = c + bias es := by
  obtain ⟨hpos, hlo, hhi, -⟩ := h
  have hsplit := Nat.two_pow_pred_mul_two hpos
  have hbias := bias_eq es
  have hcast : (2 : Int) ^ (es - 1) = ((2 ^ (es - 1) : Nat) : Int) := by simp
  omega

section
variable {E : Env} {x : Dyad} (hnorm : 2 ^ (2 - bigScale E) ≤ |x.toRat|) (hmax : |x.toRat| ≤ (maxreal E).toRat)
include hnorm

theorem norm_odd_of_normal : x.norm.man % 2 = 1 := by
  have hpos : (0 : ℚ) < 2 ^ (2 - bigScale E) := by positivity
  have hne : x.man ≠ 0 := fun h => by
    rw [Dyad.toRat_eq_zero_iff.2 h, abs_zero] at hnorm
    exact hpos.not_ge hnorm
  obtain ⟨-, -, -, -, hodd⟩ := Dyad.norm_spec hne
  exact hodd

theorem le_scale_of_normal : 2 - bigScale E ≤ x.norm.scale := le_of_two_zpow_le hnorm x.lt_two_zpow_scale

include hmax

theorem scale_le_of_normal : x.norm.scale ≤ bigScale E := by
  have hodd := norm_odd_of_normal hnorm
  exact le_of_two_zpow_le (Dyad.two_zpow_scale_le (by omega)) (hmax.trans_lt (maxreal_lt E))

end

/-- At the greatest scale the significand is at most that of maxreal. -/
theorem significand_le_of_scale_eq {E : Env} {x : Dyad} (hmax : |x.toRat| ≤ (maxreal E).toRat)
    (h : x.norm.scale = bigScale E) :
    x.norm.man * 2 ^ E.fsmax ≤ (2 ^ (E.fsmax + 1) - 2) * 2 ^ x.norm.man.log2 := by
  have hpow : (0 : ℚ) < 2 ^ bigScale E := by positivity
  rw [x.abs_toRat_eq_significand, h, maxreal_toRat, mul_comm, mul_le_mul_iff_right₀ hpow, div_le_iff₀ (by positivity),
    zpow_sub₀ two_ne_zero, zpow_natCast] at hmax
  have hscaled := mul_le_mul_of_nonneg_right hmax (show (0 : ℚ) ≤ 2 ^ E.fsmax by positivity)
  have hcast : ((2 ^ (E.fsmax + 1) - 2 : Nat) : ℚ) = 2 * 2 ^ E.fsmax - 2 := by
    rw [Nat.cast_sub (by rw [pow_succ]; have := Nat.two_pow_pos E.fsmax; omega)]
    push_cast
    ring
  rw [← Nat.cast_le (α := ℚ)]
  push_cast [hcast]
  field_simp at hscaled ⊢
  linarith

/-! ### Exact normals (42_pack.md R161, cases 5a and 5b) -/

theorem subnormalPower_eq_some {E : Env} {sc : Int} {k : Nat} (hpow : 1 - sc = 2 ^ k) (hk : k ≤ E.esmax - 1) :
    subnormalPower E sc = some k := by
  have hnat : (1 - sc).toNat = 2 ^ k := by
    rw [hpow]
    exact_mod_cast Int.toNat_natCast (2 ^ k)
  have hpos : 0 < 1 - sc := by
    rw [hpow]
    positivity
  have hlog : (2 ^ k).log2 = k := Nat.log2_two_pow
  rw [subnormalPower, hnat, hlog, if_pos ⟨hpos, rfl, hk⟩]

theorem subnormalPower_spec {E : Env} {sc : Int} {k : Nat} (h : subnormalPower E sc = some k) :
    1 - sc = 2 ^ k ∧ k ≤ E.esmax - 1 := by
  simp only [subnormalPower] at h
  split at h
  next hcond =>
    obtain ⟨hpos, hpow, hle⟩ := hcond
    cases h
    refine ⟨?_, hle⟩
    have hcast := congrArg (Nat.cast (R := Int)) hpow
    rw [Int.toNat_of_nonneg hpos.le] at hcast
    exact_mod_cast hcast
  next => cases h

theorem oneBitSubnormal_hasFields {E : Env} (sg : Bool) {k : Nat} (hk : k ≤ E.esmax - 1) :
    HasFields E (mk E sg 0 1 false (k + 1) 1) sg 0 1 false (k + 1) 1 := by
  have hem : 1 ≤ E.esmax := Nat.two_pow_pos _
  exact mk_hasFields E sg false (le_refl 1) (Nat.two_pow_pos _) (by omega) (by omega) (by decide) (Nat.two_pow_pos _)

section
variable {E : Env} {es : Nat} {sc : Int} (hes : LeastSize es sc) (hlo : 2 - bigScale E ≤ sc) (hhi : sc ≤ bigScale E)
include hes hlo hhi

theorem esmin_eq : esmin E sc = es := (esmin_leastSize hlo hhi).unique hes

/-- A normal number of the least exponent size. -/
theorem mk_normal_hasFields (sg : Bool) {f fs : Nat} (hpos : 1 ≤ fs) (hfs : fs ≤ E.fsmax) (hf : f < 2 ^ fs) :
    HasFields E (mk E sg (sc + bias es).toNat f false es fs) sg (sc + bias es).toNat f false es fs := by
  obtain ⟨-, hexpo, -⟩ := hes.biased
  exact mk_hasFields E sg false hpos hfs hes.1 (hes.le_esmax hlo hhi) hf hexpo

/-- Case 5b: the fraction is the significand's bits below the leading one, at least one bit wide. -/
theorem encodeExact_hasFields (sg : Bool) {m : Nat} (hn : m.log2 ≤ E.fsmax) :
    HasFields E (encodeExact E sg m m.log2 sc) sg (sc + bias es).toNat
      ((m - 2 ^ m.log2) * 2 ^ (max m.log2 1 - m.log2)) false es (max m.log2 1) := by
  have hwidth : 2 ^ max m.log2 1 = 2 ^ m.log2 * 2 ^ (max m.log2 1 - m.log2) := by
    rw [← pow_add, Nat.add_sub_cancel' (le_max_left _ _)]
  have hfrac : m * 2 ^ (max m.log2 1 - m.log2) - 2 ^ max m.log2 1 =
      (m - 2 ^ m.log2) * 2 ^ (max m.log2 1 - m.log2) := by rw [hwidth, Nat.sub_mul]
  have hlt : m - 2 ^ m.log2 < 2 ^ m.log2 := by
    have hlog : m < 2 ^ (m.log2 + 1) := Nat.lt_log2_self
    rw [pow_succ] at hlog
    omega
  have hbound : (m - 2 ^ m.log2) * 2 ^ (max m.log2 1 - m.log2) < 2 ^ max m.log2 1 := by
    rw [hwidth]
    exact Nat.mul_lt_mul_of_pos_right hlt (Nat.two_pow_pos _)
  have hfm : 1 ≤ E.fsmax := Nat.two_pow_pos _
  rw [encodeExact, esmin_eq hes hlo hhi, hfrac]
  exact mk_normal_hasFields hes hlo hhi sg (le_max_right _ _) (max_le hn hfm) hbound

end

/-! ### The sliver below the value rounded up (42_pack.md R161, case 5c) -/

/-- The inexact unum one ULP below the exact unum `v`, with the sign given. -/
def stepBelow (E : Env) (sg : Bool) (v : Unum) : Unum :=
  let w := v - E.ulpu + E.ubitmask
  if sg then setSign E w else w

/-- The significand in units of the full fraction width, rounded up. -/
def roundedUp (E : Env) (m : Nat) : Nat := ⌈(m : ℚ) / 2 ^ m.log2 * 2 ^ E.fsmax⌉₊

section
variable {E : Env} {m : Nat} (hn : E.fsmax < m.log2)
include hn

theorem roundedUp_eq :
    roundedUp E m = (m + 2 ^ (m.log2 - E.fsmax) - 1) / 2 ^ (m.log2 - E.fsmax) := by
  have hunit := Nat.two_pow_pos (m.log2 - E.fsmax)
  have hsplit : (2 : ℚ) ^ m.log2 = 2 ^ (m.log2 - E.fsmax) * 2 ^ E.fsmax := by
    rw [← pow_add, Nat.sub_add_cancel hn.le]
  have hquot : (m : ℚ) / 2 ^ m.log2 * 2 ^ E.fsmax = m / (2 ^ (m.log2 - E.fsmax) : Nat) := by
    rw [hsplit]
    push_cast
    field_simp
  rw [roundedUp, hquot]
  refine eq_of_forall_ge_iff fun k => ?_
  rw [Nat.ceil_le, div_le_iff₀ (by exact_mod_cast hunit), ← Nat.cast_mul, Nat.cast_le,
    Nat.div_le_iff_le_mul_add_pred hunit, mul_comm]
  omega

/-- A significand of 1 up to 2, rounded up, is at most 2. -/
theorem roundedUp_bounds : 2 ^ E.fsmax ≤ roundedUp E m ∧ roundedUp E m ≤ 2 ^ (E.fsmax + 1) := by
  have hm : m ≠ 0 := fun h => by simp [h] at hn
  have hfull : (0 : ℚ) < 2 ^ E.fsmax := by positivity
  constructor
  · have hle : ((2 ^ E.fsmax : Nat) : ℚ) ≤ (m : ℚ) / 2 ^ m.log2 * 2 ^ E.fsmax := by
      push_cast
      exact le_mul_of_one_le_left hfull.le (one_le_significand hm)
    exact Nat.cast_le.1 (hle.trans (Nat.le_ceil _))
  · rw [roundedUp, Nat.ceil_le, pow_succ, mul_comm]
    push_cast
    exact mul_le_mul_of_nonneg_left (significand_lt_two m).le hfull.le

end

/-- Where rounding up gives 2, the number is the significand 1 at the next scale. -/
def roundedScale (E : Env) (m : Nat) (sc : Int) : Int := if roundedUp E m = 2 ^ (E.fsmax + 1) then sc + 1 else sc

/-- The rounded significand at the scale of `roundedScale`. -/
def roundedSignificand (E : Env) (m : Nat) : Nat :=
  if roundedUp E m = 2 ^ (E.fsmax + 1) then 2 ^ E.fsmax else roundedUp E m

theorem roundedSignificand_sub_lt {E : Env} {m : Nat} (hn : E.fsmax < m.log2) :
    roundedSignificand E m - 2 ^ E.fsmax < 2 ^ E.fsmax := by
  obtain ⟨hlo, hhi⟩ := roundedUp_bounds hn
  have hpos := Nat.two_pow_pos E.fsmax
  rw [pow_succ] at hhi
  rw [roundedSignificand, pow_succ]
  split <;> omega

/-- A magnitude that is not above maxreal is not rounded up past the greatest scale. -/
theorem roundedScale_range {E : Env} {x : Dyad} (hnorm : 2 ^ (2 - bigScale E) ≤ |x.toRat|)
    (hmax : |x.toRat| ≤ (maxreal E).toRat) :
    2 - bigScale E ≤ roundedScale E x.norm.man x.norm.scale ∧
      roundedScale E x.norm.man x.norm.scale ≤ bigScale E := by
  have hlo := le_scale_of_normal hnorm
  have hhi := scale_le_of_normal hnorm hmax
  rw [roundedScale]
  split
  next hup =>
    have hne : x.norm.scale ≠ bigScale E := fun hscale => by
      have hsig := significand_le_of_scale_eq hmax hscale
      have hceil : roundedUp E x.norm.man ≤ 2 ^ (E.fsmax + 1) - 2 := by
        rw [roundedUp, Nat.ceil_le, div_mul_eq_mul_div, div_le_iff₀ (by positivity)]
        exact_mod_cast hsig
      have hpos := Nat.two_pow_pos (E.fsmax + 1)
      omega
    omega
  next => exact ⟨hlo, hhi⟩

/-- Case 5c: the unum one ULP below the value rounded up at full fraction width. -/
theorem encodeInexact_eq_stepBelow {E : Env} {m : Nat} {sc : Int} (sg : Bool) (hn : E.fsmax < m.log2) {es : Nat}
    (hes : LeastSize es (roundedScale E m sc)) (hlo : 2 - bigScale E ≤ roundedScale E m sc)
    (hhi : roundedScale E m sc ≤ bigScale E) :
    ∃ v, HasFields E v false (roundedScale E m sc + bias es).toNat (roundedSignificand E m - 2 ^ E.fsmax) false es
        E.fsmax ∧ encodeInexact E sg m m.log2 sc = stepBelow E sg v := by
  refine ⟨_, mk_normal_hasFields hes hlo hhi false (Nat.two_pow_pos _) (le_refl _) (roundedSignificand_sub_lt hn), ?_⟩
  rw [← esmin_eq hes hlo hhi, encodeInexact, ← roundedUp_eq hn]
  rfl

/-! ### Subnormals (42_pack.md R161, case 4) -/

/-- Stripping takes off trailing zeros, until the fraction is odd or one bit wide. -/
theorem stripZeros_spec {fs : Nat} (hfs : 1 ≤ fs) (f : Nat) :
    ∃ k, (stripZeros fs f).1 = fs - k ∧ f = (stripZeros fs f).2 * 2 ^ k ∧ k < fs ∧
      ((stripZeros fs f).2 % 2 = 1 ∨ k + 1 = fs) := by
  obtain ⟨n, rfl⟩ := Nat.exists_eq_add_of_le' hfs
  clear hfs
  induction n generalizing f with
  | zero => exact ⟨0, rfl, (Nat.mul_one f).symm, Nat.one_pos, .inr rfl⟩
  | succ n ih =>
    rw [stripZeros]
    split
    next heven =>
      obtain ⟨k, hfs, hf, hlt, hend⟩ := ih (f / 2)
      refine ⟨k + 1, by omega, ?_, by omega, hend.imp_right (by omega)⟩
      rw [pow_succ, ← mul_assoc, ← hf]
      omega
    next hodd => exact ⟨0, rfl, (Nat.mul_one f).symm, Nat.succ_pos _, .inl (by omega)⟩

/-- The model's units of the smallest subnormal are the floor of the quotient, and its test for an exact one is that
the quotient is that floor. -/
theorem encodeSubnormal_eq (E : Env) (sg : Bool) {a : Dyad} (ha : a.sg = false) {n : Nat}
    (hn : n = ⌊a.toRat / 2 ^ smallsubExp E⌋₊) :
    encodeSubnormal E sg a =
      if (n : ℚ) = a.toRat / 2 ^ smallsubExp E then
        mk E sg 0 (stripZeros E.fsmax n).2 false E.esmax (stripZeros E.fsmax n).1
      else mk E sg 0 n true E.esmax E.fsmax := by
  have hquot : a.toRat / 2 ^ smallsubExp E = a.man * 2 ^ (a.exp - smallsubExp E) := by
    rw [zpow_sub₀ two_ne_zero]
    simp only [Dyad.toRat, ha, Bool.false_eq_true, if_false, one_mul, mul_div_assoc]
  by_cases hd : 0 ≤ a.exp - smallsubExp E
  · obtain ⟨k, hk⟩ := Int.eq_ofNat_of_zero_le hd
    have hunits : a.toRat / 2 ^ smallsubExp E = (a.man * 2 ^ k : Nat) := by
      rw [hquot, hk, zpow_natCast]
      push_cast
      rfl
    rw [hunits, Nat.floor_natCast] at hn
    simp [encodeSubnormal, hunits, hk, hn]
  · obtain ⟨k, hk⟩ := Int.eq_ofNat_of_zero_le (show 0 ≤ -(a.exp - smallsubExp E) by omega)
    have hexp : a.exp - smallsubExp E = -k := by omega
    have hunits : a.toRat / 2 ^ smallsubExp E = (a.man : ℚ) / (2 ^ k : Nat) := by
      rw [hquot, hexp, zpow_neg, zpow_natCast, ← div_eq_mul_inv]
      push_cast
      rfl
    have hpos : 0 < 2 ^ k := Nat.two_pow_pos k
    rw [hunits, Nat.floor_div_eq_div] at hn
    have hexact : (n : ℚ) = (a.man : ℚ) / (2 ^ k : Nat) ↔ a.man % 2 ^ k = 0 := by
      rw [eq_div_iff (by exact_mod_cast hpos.ne'), ← Nat.cast_mul, Nat.cast_inj, hn, ← Nat.dvd_iff_mod_eq_zero]
      exact ⟨fun h => ⟨_, by rw [mul_comm]; exact h.symm⟩, Nat.div_mul_cancel⟩
    simp only [encodeSubnormal, hunits, hexact, hk, hd, Int.toNat_natCast, ← hn]
    simp

/-! ### The fields `r2u` gives, case by case -/

theorem openInfPattern_hasFields (E : Env) (sg : Bool) :
    HasFields E (openInfPattern E sg) sg (2 ^ E.esmax - 1) (2 ^ E.fsmax - 2) true E.esmax E.fsmax := by
  have he := Nat.two_pow_pos E.esmax
  have hf := Nat.two_pow_pos E.fsmax
  exact mk_hasFields E sg true (Nat.two_pow_pos _) (le_refl _) (Nat.two_pow_pos _) (le_refl _) (by rw [ones]; omega)
    (by rw [ones]; omega)

theorem openZeroPattern_hasFields (E : Env) (sg : Bool) :
    HasFields E (openZeroPattern E sg) sg 0 0 true E.esmax E.fsmax :=
  mk_hasFields E sg true (Nat.two_pow_pos _) (le_refl _) (Nat.two_pow_pos _) (le_refl _) (Nat.two_pow_pos _)
    (Nat.two_pow_pos _)

theorem one_le_bigScale (E : Env) : 1 ≤ bigScale E := by
  have hpos : (0 : Int) < 2 ^ (E.esmax - 1) := by positivity
  exact hpos

theorem smallnorm_le_maxreal (E : Env) : 2 ^ (2 - bigScale E) ≤ (maxreal E).toRat := by
  have hscale := one_le_bigScale E
  have hfm : (1 : Int) ≤ (E.fsmax : Int) := by exact_mod_cast Nat.two_pow_pos E.fss.toNat
  have hulp : (2 : ℚ) ^ (1 - (E.fsmax : Int)) ≤ 1 := zpow_le_one_of_nonpos₀ one_le_two (by omega)
  have hpow : (2 : ℚ) ^ (2 - bigScale E) ≤ 2 ^ bigScale E := zpow_le_zpow_right₀ one_le_two (by omega)
  have hpos : (0 : ℚ) < 2 ^ bigScale E := by positivity
  rw [maxreal_toRat]
  nlinarith

section
variable {E : Env} {x : Dyad}

theorem r2u_hasFields_of_gt_maxreal (h : (maxreal E).toRat < |x.toRat|) :
    HasFields E (r2u E x) x.isNeg (2 ^ E.esmax - 1) (2 ^ E.fsmax - 2) true E.esmax E.fsmax := by
  rw [r2u_of_gt_maxreal h]
  exact openInfPattern_hasFields E _

theorem r2u_hasFields_of_lt_smallsub (hpos : 0 < |x.toRat|) (h : |x.toRat| < 2 ^ smallsubExp E) :
    HasFields E (r2u E x) x.isNeg 0 0 true E.esmax E.fsmax := by
  rw [r2u_of_lt_smallsub hpos ((h.le.trans (smallsub_le_smallnorm E)).trans (smallnorm_le_maxreal E)) h]
  exact openZeroPattern_hasFields E _

section
variable (hsub : 2 ^ smallsubExp E ≤ |x.toRat|) (h : |x.toRat| < 2 ^ (2 - bigScale E))
include hsub h

theorem subnormal_units_bounds :
    0 < ⌊|x.toRat| / 2 ^ smallsubExp E⌋₊ ∧ ⌊|x.toRat| / 2 ^ smallsubExp E⌋₊ < 2 ^ E.fsmax := by
  have hunit : (0 : ℚ) < 2 ^ smallsubExp E := by positivity
  have hexp : 2 - bigScale E = E.fsmax + smallsubExp E := by
    rw [smallsubExp]
    omega
  refine ⟨Nat.floor_pos.2 ((one_le_div hunit).2 hsub), (Nat.floor_lt (by positivity)).2 ?_⟩
  rw [hexp, zpow_add₀ two_ne_zero, zpow_natCast] at h
  push_cast
  exact (div_lt_iff₀ hunit).2 h

theorem r2u_of_subnormal :
    r2u E x =
      if (⌊|x.toRat| / 2 ^ smallsubExp E⌋₊ : ℚ) = |x.toRat| / 2 ^ smallsubExp E then
        mk E x.isNeg 0 (stripZeros E.fsmax ⌊|x.toRat| / 2 ^ smallsubExp E⌋₊).2 false E.esmax
          (stripZeros E.fsmax ⌊|x.toRat| / 2 ^ smallsubExp E⌋₊).1
      else mk E x.isNeg 0 ⌊|x.toRat| / 2 ^ smallsubExp E⌋₊ true E.esmax E.fsmax := by
  have hunit : (0 : ℚ) < 2 ^ smallsubExp E := by positivity
  rw [r2u_of_lt_smallnorm (hunit.trans_le hsub) (h.le.trans (smallnorm_le_maxreal E)) hsub h,
    encodeSubnormal_eq E x.isNeg (a := x.norm.abs) rfl rfl, Dyad.norm_abs_toRat]

theorem r2u_hasFields_of_exact_subnormal
    (hexact : (⌊|x.toRat| / 2 ^ smallsubExp E⌋₊ : ℚ) = |x.toRat| / 2 ^ smallsubExp E) :
    ∃ f k, ⌊|x.toRat| / 2 ^ smallsubExp E⌋₊ = f * 2 ^ k ∧ k < E.fsmax ∧ (f % 2 = 1 ∨ k + 1 = E.fsmax) ∧
      HasFields E (r2u E x) x.isNeg 0 f false E.esmax (E.fsmax - k) := by
  obtain ⟨-, hlt⟩ := subnormal_units_bounds hsub h
  rw [r2u_of_subnormal hsub h, if_pos hexact]
  have hfm : 1 ≤ E.fsmax := Nat.two_pow_pos _
  obtain ⟨k, hfs, hf, hk, hend⟩ := stripZeros_spec hfm ⌊|x.toRat| / 2 ^ smallsubExp E⌋₊
  refine ⟨_, k, hf, hk, hend, ?_⟩
  have hfrac : (stripZeros E.fsmax ⌊|x.toRat| / 2 ^ smallsubExp E⌋₊).2 < 2 ^ (E.fsmax - k) := by
    have hsplit : 2 ^ E.fsmax = 2 ^ (E.fsmax - k) * 2 ^ k := by rw [← pow_add, Nat.sub_add_cancel hk.le]
    rw [hsplit] at hlt
    exact Nat.lt_of_mul_lt_mul_right (hf ▸ hlt)
  rw [hfs]
  exact mk_hasFields E _ false (by omega) (by omega) (Nat.two_pow_pos _) (le_refl _) hfrac (Nat.two_pow_pos _)

theorem r2u_hasFields_of_inexact_subnormal
    (hexact : (⌊|x.toRat| / 2 ^ smallsubExp E⌋₊ : ℚ) ≠ |x.toRat| / 2 ^ smallsubExp E) :
    HasFields E (r2u E x) x.isNeg 0 ⌊|x.toRat| / 2 ^ smallsubExp E⌋₊ true E.esmax E.fsmax := by
  obtain ⟨-, hlt⟩ := subnormal_units_bounds hsub h
  rw [r2u_of_subnormal hsub h, if_neg hexact]
  exact mk_hasFields E _ true (Nat.two_pow_pos _) (le_refl _) (Nat.two_pow_pos _) (le_refl _) hlt (Nat.two_pow_pos _)

end

section
variable (hnorm : 2 ^ (2 - bigScale E) ≤ |x.toRat|) (hmax : |x.toRat| ≤ (maxreal E).toRat)
include hnorm hmax

theorem r2u_hasFields_of_power {k : Nat} (hone : x.norm.man.log2 = 0) (hpow : 1 - x.norm.scale = 2 ^ k)
    (hk : k ≤ E.esmax - 1) : HasFields E (r2u E x) x.isNeg 0 1 false (k + 1) 1 := by
  rw [r2u_of_normal hnorm hmax, if_pos hone, subnormalPower_eq_some hpow hk]
  exact oneBitSubnormal_hasFields _ hk

variable (hpow : x.norm.man.log2 ≠ 0 ∨ ∀ k : Nat, k ≤ E.esmax - 1 → 1 - x.norm.scale ≠ 2 ^ k)
include hpow

/-- No one-bit subnormal has the value. -/
theorem r2u_of_not_power : r2u E x =
    if x.norm.man.log2 ≤ E.fsmax then encodeExact E x.isNeg x.norm.man x.norm.man.log2 x.norm.scale
    else encodeInexact E x.isNeg x.norm.man x.norm.man.log2 x.norm.scale := by
  have hnone : (if x.norm.man.log2 = 0 then subnormalPower E x.norm.scale else none) = none := by
    split
    next hone =>
      refine Option.eq_none_iff_forall_ne_some.2 fun k hk => ?_
      obtain ⟨heq, hle⟩ := subnormalPower_spec hk
      exact hpow.elim (absurd hone) fun hnot => hnot k hle heq
    next => rfl
  rw [r2u_of_normal hnorm hmax, hnone]

theorem r2u_hasFields_of_exact (hn : x.norm.man.log2 ≤ E.fsmax) {es : Nat} (hes : LeastSize es x.norm.scale) :
    HasFields E (r2u E x) x.isNeg (x.norm.scale + bias es).toNat
      ((x.norm.man - 2 ^ x.norm.man.log2) * 2 ^ (max x.norm.man.log2 1 - x.norm.man.log2)) false es
      (max x.norm.man.log2 1) := by
  rw [r2u_of_not_power hnorm hmax hpow, if_pos hn]
  exact encodeExact_hasFields hes (le_scale_of_normal hnorm) (scale_le_of_normal hnorm hmax) _ hn

end

theorem r2u_eq_stepBelow_of_inexact (hnorm : 2 ^ (2 - bigScale E) ≤ |x.toRat|)
    (hmax : |x.toRat| ≤ (maxreal E).toRat) (hn : E.fsmax < x.norm.man.log2) {es : Nat}
    (hes : LeastSize es (roundedScale E x.norm.man x.norm.scale)) :
    ∃ v, HasFields E v false (roundedScale E x.norm.man x.norm.scale + bias es).toNat
      (roundedSignificand E x.norm.man - 2 ^ E.fsmax) false es E.fsmax ∧ r2u E x = stepBelow E x.isNeg v := by
  obtain ⟨hlo, hhi⟩ := roundedScale_range hnorm hmax
  rw [r2u_of_not_power hnorm hmax (.inl (by omega)), if_neg (by omega)]
  exact encodeInexact_eq_stepBelow _ hn hes hlo hhi

end

/-! ### The obligation -/

/-- An odd significand needs all its bits below the leading one. -/
theorem log2_le_of_significand_mul {m j c : Nat} (hodd : m % 2 = 1) (h : (m : ℚ) / 2 ^ m.log2 * 2 ^ j = c) :
    m.log2 ≤ j := by
  have hnat : m * 2 ^ j = c * 2 ^ m.log2 := by
    rw [div_mul_eq_mul_div, div_eq_iff (by positivity)] at h
    exact_mod_cast h
  have hcop : Nat.Coprime (2 ^ m.log2) m := Nat.Coprime.pow_left _ ((Nat.coprime_two_left).2 (Nat.odd_iff.2 hodd))
  have hdvd : 2 ^ m.log2 ∣ 2 ^ j := hcop.dvd_of_dvd_mul_left ⟨c, by rw [hnat, mul_comm]⟩
  exact (Nat.pow_dvd_pow_iff_le_right (by decide)).1 hdvd

theorem significand_mul_log2 (m : Nat) : (m : ℚ) / 2 ^ m.log2 * 2 ^ m.log2 = m := div_mul_cancel₀ _ (by positivity)

theorem significand_eq_one_iff {m : Nat} (hodd : m % 2 = 1) : (m : ℚ) / 2 ^ m.log2 = 1 ↔ m.log2 = 0 := by
  constructor
  · intro h
    have hle := log2_le_of_significand_mul (j := 0) (c := 1) hodd (by simpa using h)
    omega
  · intro h
    have hlt : m < 2 ^ (m.log2 + 1) := Nat.lt_log2_self
    have hone : m = 1 := by
      rw [h] at hlt
      omega
    rw [h, hone, Nat.cast_one, pow_zero, div_one]

/-- Settles O44. The rule's searches (the scale, the least number of fraction bits, the least exponent size, the power
of two, the floor and the ceiling) are turned into the model's closed forms on the normalised significand. -/
theorem realEncodingByCases : Obligations.RealEncodingByCases := by
  unfold Obligations.RealEncodingByCases
  intro E x em fm S maxR minSub minNorm a sg u n
  have hmaxR : maxR = (maxreal E).toRat := (maxreal_toRat E).symm
  have hsg : sg = x.isNeg := x.isNeg_eq_decide.symm
  have hunit : minSub ≠ 0 := zpow_ne_zero _ two_ne_zero
  rw [hmaxR, hsg]
  refine ⟨r2u_of_zero, r2u_hasFields_of_gt_maxreal, r2u_hasFields_of_lt_smallsub, fun hsub h hexact => ?exactSubnormal,
    fun hsub h hexact => ?inexactSubnormal, fun hnorm hmax sc hsc hsc' => ?normal⟩
  case exactSubnormal => exact r2u_hasFields_of_exact_subnormal hsub h ((eq_div_iff hunit).2 hexact)
  case inexactSubnormal =>
    exact r2u_hasFields_of_inexact_subnormal hsub h fun heq => hexact ((eq_div_iff hunit).1 heq)
  case normal =>
    have hodd := norm_odd_of_normal hnorm
    have hscale : sc = x.norm.scale := le_antisymm (le_of_two_zpow_le hsc x.lt_two_zpow_scale)
      (le_of_two_zpow_le (Dyad.two_zpow_scale_le (by omega)) hsc')
    have hy : a / 2 ^ sc = (x.norm.man : ℚ) / 2 ^ x.norm.man.log2 := by
      rw [hscale, div_eq_iff (by positivity)]
      exact x.abs_toRat_eq_significand
    intro y least expo
    simp only [y, hy, hscale]
    refine ⟨fun k hone hk hpow => ?power, fun hpow => ?notPower⟩
    case power =>
      exact r2u_hasFields_of_power hnorm hmax ((significand_eq_one_iff hodd).1 hone) hpow hk
    case notPower =>
      have hnot := hpow.imp_left fun hne => mt (significand_eq_one_iff hodd).2 hne
      refine ⟨fun m c hm hc hleast es hes => ?exact, fun hnone => ?inexact⟩
      case exact =>
        have hlog := log2_le_of_significand_mul hodd hc
        have hbits : m = x.norm.man.log2 := by
          refine le_antisymm (Nat.le_of_not_lt fun hlt => ?_) hlog
          exact hleast _ _ hlt (significand_mul_log2 x.norm.man)
        subst hbits
        have hman : c = x.norm.man := by exact_mod_cast hc.symm.trans (significand_mul_log2 x.norm.man)
        rw [hman]
        exact r2u_hasFields_of_exact hnorm hmax hnot hm hes
      case inexact =>
        have hn : E.fsmax < x.norm.man.log2 :=
          Nat.lt_of_not_le fun hle => hnone _ _ hle (significand_mul_log2 x.norm.man)
        intro es hes
        exact r2u_eq_stepBelow_of_inexact hnorm hmax hn hes

end Sys2Proof.Machine
end

section
/-! PROOF. The payload of a unum as one number (10_state.md R23, 41_tag.md R120): the unums one `ubitmask` above and
below a unum (42_pack.md R163), and the sign bit. -/

namespace Sys2Proof.Machine

theorem ubitmask_eq (E : Env) : E.ubitmask = 2 ^ (E.ess.toNat + E.fss.toNat) := by
  rw [Env.ubitmask, Env.utagsize]
  congr 1
  omega

theorem two_pow_utagsize (E : Env) : 2 ^ E.utagsize = 2 * E.ubitmask := by
  rw [Env.ubitmask, mul_comm, ← pow_succ]
  congr 1
  rw [Env.utagsize]
  omega

/-- The exponent and fraction fields of a unum, read as one number. -/
def payloadOf (E : Env) (u : Unum) : Nat := expoOf E u * 2 ^ fsOf E u + fracOf E u

/-- The unum of a payload. -/
def ofPayload (E : Env) (s : Bool) (p : Nat) (ub : Bool) (es fs : Nat) : Unum :=
  mk E s (p / 2 ^ fs) (p % 2 ^ fs) ub es fs

theorem ofPayload_eq (E : Env) (s : Bool) (p : Nat) (ub : Bool) (es fs : Nat) :
    ofPayload E s p ub es fs = (fs - 1) + (es - 1) * 2 ^ E.fss.toNat + ub.toNat * E.ubitmask + p * (2 * E.ubitmask) +
      s.toNat * 2 ^ (E.utagsize + fs + es) := by
  have hp : p * (2 * E.ubitmask) = p % 2 ^ fs * (2 * E.ubitmask) + p / 2 ^ fs * (2 * E.ubitmask * 2 ^ fs) := by
    conv_lhs => rw [← Nat.mod_add_div p (2 ^ fs)]
    ring
  rw [ofPayload, mk, hp, add_comm E.fss.toNat, ← ubitmask_eq, pow_add 2 E.utagsize fs, two_pow_utagsize]
  simp only [Nat.add_assoc]

theorem expo_mul_add_frac_lt {e f es fs : Nat} (he : e < 2 ^ es) (hf : f < 2 ^ fs) :
    e * 2 ^ fs + f < 2 ^ (fs + es) := by
  rw [add_comm]
  exact append_lt hf he

theorem payloadOf_lt (E : Env) (u : Unum) : payloadOf E u < 2 ^ (fsOf E u + esOf E u) :=
  expo_mul_add_frac_lt (expoOf_lt E u) (fracOf_lt E u)

theorem payload_div {e f fs : Nat} (hf : f < 2 ^ fs) : (e * 2 ^ fs + f) / 2 ^ fs = e := by
  rw [add_comm, Nat.add_mul_div_right _ _ (Nat.two_pow_pos fs), Nat.div_eq_of_lt hf, Nat.zero_add]

theorem payload_mod {e f fs : Nat} (hf : f < 2 ^ fs) : (e * 2 ^ fs + f) % 2 ^ fs = f := by
  rw [add_comm, Nat.add_mul_mod_self_right, Nat.mod_eq_of_lt hf]

/-- A canonical unum is the unum of its sign, payload and tag. -/
theorem ofPayload_payloadOf {E : Env} {u : Unum} (h : Canonical E u) :
    ofPayload E (signOf E u) (payloadOf E u) (ubitOf E u) (esOf E u) (fsOf E u) = u := by
  rw [ofPayload, payloadOf, payload_div (fracOf_lt E u), payload_mod (fracOf_lt E u), mk_fields h]

/-- `u` is the canonical unum of a sign, a payload and a tag. -/
structure HasPayload (E : Env) (u : Unum) (s : Bool) (p : Nat) (ub : Bool) (es fs : Nat) : Prop where
  canonical : Canonical E u
  sign : signOf E u = s
  payload : payloadOf E u = p
  ubit : ubitOf E u = ub
  es : esOf E u = es
  fs : fsOf E u = fs

theorem HasPayload.of_hasFields {E : Env} {u : Unum} {s : Bool} {e f : Nat} {ub : Bool} {es fs : Nat}
    (h : HasFields E u s e f ub es fs) : HasPayload E u s (e * 2 ^ fs + f) ub es fs := by
  obtain ⟨rfl, rfl, rfl, rfl, rfl, rfl, hc⟩ := h
  exact ⟨hc, rfl, rfl, rfl, rfl, rfl⟩

section
variable {E : Env} {u : Unum} {s : Bool} {p : Nat} {ub : Bool} {es fs : Nat}

theorem HasPayload.eq_ofPayload (h : HasPayload E u s p ub es fs) : u = ofPayload E s p ub es fs := by
  obtain ⟨hc, rfl, rfl, rfl, rfl, rfl⟩ := h
  exact (ofPayload_payloadOf hc).symm

/-- The sizes of a tag and the payloads it holds. -/
structure TagHolds (E : Env) (p es fs : Nat) : Prop where
  es_pos : 1 ≤ es
  es_le : es ≤ E.esmax
  fs_pos : 1 ≤ fs
  fs_le : fs ≤ E.fsmax
  payload_lt : p < 2 ^ (fs + es)

theorem TagHolds.of_le {q : Nat} (h : TagHolds E p es fs) (hq : q < 2 ^ (fs + es)) : TagHolds E q es fs :=
  { h with payload_lt := hq }

theorem HasPayload.tagHolds (h : HasPayload E u s p ub es fs) : TagHolds E p es fs := by
  obtain ⟨-, rfl, rfl, rfl, rfl, rfl⟩ := h
  exact ⟨esOf_pos E u, esOf_le E u, fsOf_pos E u, fsOf_le E u, payloadOf_lt E u⟩

theorem ofPayload_hasPayload (h : TagHolds E p es fs) (s ub : Bool) :
    HasPayload E (ofPayload E s p ub es fs) s p ub es fs := by
  have hexpo : p / 2 ^ fs < 2 ^ es := by
    rw [Nat.div_lt_iff_lt_mul (Nat.two_pow_pos fs), ← pow_add, add_comm]
    exact h.payload_lt
  have hfields := mk_hasFields E s ub h.fs_pos h.fs_le h.es_pos h.es_le (Nat.mod_lt p (Nat.two_pow_pos fs)) hexpo
  have hpayload := HasPayload.of_hasFields hfields
  rw [Nat.div_add_mod'] at hpayload
  exact hpayload

/-! ### One `ubitmask` up or down, and the sign bit -/

/-- One `ubitmask` above an exact unum: the sliver above its payload. -/
theorem HasPayload.exact_add_ubitmask (h : HasPayload E u s p false es fs) :
    HasPayload E (u + E.ubitmask) s p true es fs := by
  have hsum : u + E.ubitmask = ofPayload E s p true es fs := by
    rw [h.eq_ofPayload, ofPayload_eq, ofPayload_eq, Bool.toNat_false, Bool.toNat_true]
    change (_ : Nat) = _
    omega
  rw [hsum]
  exact ofPayload_hasPayload h.tagHolds s true

/-- One `ubitmask` above an inexact unum: the next payload, exact. -/
theorem HasPayload.inexact_add_ubitmask (h : HasPayload E u s p true es fs) (hp : p + 1 < 2 ^ (fs + es)) :
    HasPayload E (u + E.ubitmask) s (p + 1) false es fs := by
  have hsum : u + E.ubitmask = ofPayload E s (p + 1) false es fs := by
    rw [h.eq_ofPayload, ofPayload_eq, ofPayload_eq, Bool.toNat_false, Bool.toNat_true, Nat.add_mul p 1]
    change (_ : Nat) = _
    omega
  rw [hsum]
  exact ofPayload_hasPayload (h.tagHolds.of_le hp) s false

/-- One `ubitmask` below an exact unum whose payload is not 0: the sliver above the payload before it. -/
theorem HasPayload.exact_sub_ubitmask (h : HasPayload E u s (p + 1) false es fs) :
    HasPayload E (u - E.ubitmask) s p true es fs := by
  have hdiff : u - E.ubitmask = ofPayload E s p true es fs := by
    rw [h.eq_ofPayload, ofPayload_eq, ofPayload_eq, Bool.toNat_false, Bool.toNat_true, Nat.add_mul p 1]
    change (_ : Nat) = _
    omega
  have hlt := h.tagHolds.payload_lt
  rw [hdiff]
  exact ofPayload_hasPayload (h.tagHolds.of_le (by omega)) s true

/-- One `ubitmask` below an inexact unum: the exact unum of its payload. -/
theorem HasPayload.inexact_sub_ubitmask (h : HasPayload E u s p true es fs) :
    HasPayload E (u - E.ubitmask) s p false es fs := by
  have hdiff : u - E.ubitmask = ofPayload E s p false es fs := by
    rw [h.eq_ofPayload, ofPayload_eq, ofPayload_eq, Bool.toNat_false, Bool.toNat_true]
    change (_ : Nat) = _
    omega
  rw [hdiff]
  exact ofPayload_hasPayload h.tagHolds s false

theorem HasPayload.setSign (h : HasPayload E u false p ub es fs) : HasPayload E (setSign E u) true p ub es fs := by
  have hbits : numbits E u - 1 = E.utagsize + fs + es := by
    rw [numbits, h.fs, h.es, Nat.add_sub_cancel]
  have hsum : Machine.setSign E u = ofPayload E true p ub es fs := by
    rw [Machine.setSign, hbits, h.eq_ofPayload, ofPayload_eq, ofPayload_eq, Bool.toNat_false, Bool.toNat_true]
    change (_ : Nat) = _
    omega
  rw [hsum]
  exact ofPayload_hasPayload h.tagHolds true ub

/-- One ULP below an exact unum whose payload is not 0, marked uncertain. -/
theorem HasPayload.stepBelow (h : HasPayload E u false (p + 1) false es fs) (sg : Bool) :
    HasPayload E (stepBelow E sg u) sg p true es fs := by
  have hsliver := h.exact_sub_ubitmask
  have hulp : E.ulpu = 2 * E.ubitmask := two_pow_utagsize E
  have hroom : E.ulpu ≤ u := by
    rw [h.eq_ofPayload, ofPayload_eq, hulp, Nat.add_mul p 1]
    omega
  have hstep : u - E.ulpu + E.ubitmask = u - E.ubitmask := by
    rw [hulp] at hroom ⊢
    change (_ : Nat) ≤ _ at hroom
    change (_ : Nat) = _
    omega
  rw [Machine.stepBelow, hstep]
  cases sg
  · exact hsliver
  · exact hsliver.setSign

end

/-! ### The all-ones payload -/

/-- An infinity or NaN has the greatest payload of its tag. -/
theorem payloadOf_of_isSpecial {E : Env} {u : Unum} (h : isSpecial E u = true) :
    payloadOf E u + 1 = 2 ^ (fsOf E u + esOf E u) := by
  simp only [isSpecial, Bool.and_eq_true, beq_iff_eq] at h
  obtain ⟨⟨⟨hes, hfs⟩, hexpo⟩, hfrac⟩ := h
  have hE := Nat.two_pow_pos E.esmax
  have hF := Nat.two_pow_pos E.fsmax
  rw [payloadOf, hes, hfs, hexpo, hfrac, ones, ones, Nat.sub_mul, add_comm E.fsmax, pow_add]
  have hprod : 2 ^ E.fsmax ≤ 2 ^ E.esmax * 2 ^ E.fsmax := Nat.le_mul_of_pos_left _ hE
  omega

theorem isSpecial_eq_false_of_payload {E : Env} {u : Unum} (h : payloadOf E u + 1 < 2 ^ (fsOf E u + esOf E u)) :
    isSpecial E u = false := by
  rw [Bool.eq_false_iff]
  exact fun hsp => h.ne (payloadOf_of_isSpecial hsp)

theorem isNan_eq_false_of_isSpecial {E : Env} {u : Unum} (h : isSpecial E u = false) : isNan E u = false := by
  simp [isNan, h]

theorem isNan_eq_false_of_exact {E : Env} {u : Unum} (h : ubitOf E u = false) : isNan E u = false := by
  simp [isNan, h]

end Sys2Proof.Machine
end

section
/-! PROOF. What every unum `r2u` gives has (42_pack.md R161), the endpoint encoders arm by arm (R164), ENCL and ENCR
(R156, R157), and O46. -/

namespace Sys2Proof.Machine

/-! ### The unums `r2u` gives -/

/-- A canonical unum of sign `s` that is no infinity and no NaN; when inexact, there is a next payload at its tag. -/
structure FiniteUnum (E : Env) (s : Bool) (u : Unum) : Prop where
  canonical : Canonical E u
  sign : signOf E u = s
  notSpecial : isSpecial E u = false
  room : ubitOf E u = true → payloadOf E u + 1 < 2 ^ (fsOf E u + esOf E u)

section
variable {E : Env} {u : Unum} {s ub : Bool} {p es fs : Nat}

theorem HasPayload.finiteUnum_of_room (h : HasPayload E u s p ub es fs) (hp : p + 1 < 2 ^ (fs + es)) :
    FiniteUnum E s u := by
  have hroom : payloadOf E u + 1 < 2 ^ (fsOf E u + esOf E u) := by rwa [h.payload, h.fs, h.es]
  exact ⟨h.canonical, h.sign, isSpecial_eq_false_of_payload hroom, fun _ => hroom⟩

theorem HasPayload.finiteUnum_of_exact (h : HasPayload E u s p false es fs) (hsp : isSpecial E u = false) :
    FiniteUnum E s u :=
  ⟨h.canonical, h.sign, hsp, fun hub => by rw [h.ubit] at hub; contradiction⟩

/-- A subnormal or zero has a next payload. -/
theorem room_of_expo_zero {f : Nat} (hes : 1 ≤ es) (hf : f < 2 ^ fs) : 0 * 2 ^ fs + f + 1 < 2 ^ (fs + es) := by
  have htwo : 2 ^ 1 ≤ 2 ^ es := Nat.pow_le_pow_right two_pos hes
  have hpos := Nat.two_pow_pos fs
  rw [pow_add]
  nlinarith

/-- What `r2u` gives for `x`: a finite unum of its sign, whose payload is not 0 if it is exact and `x` is not 0. -/
structure RealUnum (E : Env) (x : Dyad) (u : Unum) : Prop extends FiniteUnum E x.isNeg u where
  payload_pos : ubitOf E u = false → 0 < |x.toRat| → 0 < payloadOf E u

theorem HasPayload.realUnum_of_inexact {x : Dyad} (h : HasPayload E u x.isNeg p true es fs)
    (hp : p + 1 < 2 ^ (fs + es)) : RealUnum E x u :=
  ⟨h.finiteUnum_of_room hp, fun hub => by rw [h.ubit] at hub; contradiction⟩

theorem HasPayload.realUnum_of_exact {x : Dyad} (h : HasPayload E u x.isNeg p false es fs)
    (hsp : isSpecial E u = false) (hp : 0 < p) : RealUnum E x u :=
  ⟨h.finiteUnum_of_exact hsp, fun _ _ => h.payload ▸ hp⟩

end

section
variable {E : Env} {x : Dyad}

theorem realUnum_zero (h : |x.toRat| = 0) : RealUnum E x 0 := by
  have hneg : x.isNeg = false := by
    rw [Dyad.isNeg_eq_decide, abs_eq_zero.1 h]
    rfl
  have hfields : HasFields E 0 false 0 0 false 1 1 := by
    have hmk := mk_hasFields E false (e := 0) (f := 0) false (le_refl 1) (Nat.two_pow_pos _) (le_refl 1)
      (Nat.two_pow_pos _) (by decide) (by decide)
    simpa [mk] using hmk
  have hpayload := HasPayload.of_hasFields hfields
  refine ⟨?_, fun _ hpos => absurd h hpos.ne'⟩
  rw [hneg]
  exact hpayload.finiteUnum_of_room (by decide)

theorem realUnum_subnormal (hsub : 2 ^ smallsubExp E ≤ |x.toRat|) (h : |x.toRat| < 2 ^ (2 - bigScale E)) :
    RealUnum E x (r2u E x) := by
  obtain ⟨hpos, hlt⟩ := subnormal_units_bounds hsub h
  by_cases hexact : (⌊|x.toRat| / 2 ^ smallsubExp E⌋₊ : ℚ) = |x.toRat| / 2 ^ smallsubExp E
  · obtain ⟨f, k, hf, -, -, hfields⟩ := r2u_hasFields_of_exact_subnormal hsub h hexact
    have hfpos : 0 < f := Nat.pos_of_ne_zero fun hz => by
      rw [hf, hz, Nat.zero_mul] at hpos
      exact Nat.lt_irrefl 0 hpos
    have hexpo : expoOf E (r2u E x) ≠ ones (esOf E (r2u E x)) := by
      obtain ⟨-, he, -, -, hes, -⟩ := hfields
      rw [he, hes]
      exact (Nat.sub_pos_of_lt (Nat.one_lt_two_pow (Nat.two_pow_pos _).ne')).ne
    exact (HasPayload.of_hasFields hfields).realUnum_of_exact (isSpecial_eq_false_of_expo hexpo) (by omega)
  · exact (HasPayload.of_hasFields (r2u_hasFields_of_inexact_subnormal hsub h hexact)).realUnum_of_inexact
      (room_of_expo_zero (Nat.two_pow_pos _) hlt)

section
variable (hnorm : 2 ^ (2 - bigScale E) ≤ |x.toRat|) (hmax : |x.toRat| ≤ (maxreal E).toRat)
include hnorm hmax

/-- The value of an all-ones payload at the maximum tag is above maxreal, so no exact normal has it. -/
theorem isSpecial_r2u_of_exact (hpow : x.norm.man.log2 ≠ 0 ∨ ∀ k : Nat, k ≤ E.esmax - 1 → 1 - x.norm.scale ≠ 2 ^ k)
    (hn : x.norm.man.log2 ≤ E.fsmax) {es : Nat} (hes : LeastSize es x.norm.scale) :
    isSpecial E (r2u E x) = false := by
  obtain ⟨-, hexpo, hfrac, -, hesOf, hfsOf, -⟩ := r2u_hasFields_of_exact hnorm hmax hpow hn hes
  rw [Bool.eq_false_iff]
  intro hsp
  simp only [isSpecial, Bool.and_eq_true, beq_iff_eq, hexpo, hfrac, hesOf, hfsOf] at hsp
  obtain ⟨⟨⟨rfl, hfs⟩, he⟩, hf⟩ := hsp
  have hfm : 1 ≤ E.fsmax := Nat.two_pow_pos _
  have htwo : 2 ^ 1 ≤ 2 ^ E.fsmax := Nat.pow_le_pow_right two_pos hfm
  have hlog : x.norm.man.log2 = E.fsmax := by
    by_contra hne
    have hzero : x.norm.man.log2 = 0 := by omega
    have hfsmax : E.fsmax = 1 := by omega
    rw [hzero, hfsmax] at hf
    have heven : (x.norm.man - 2 ^ 0) * 2 = 1 := hf
    omega
  have hscale : x.norm.scale = bigScale E := by
    obtain ⟨-, -, hbiased⟩ := hes.biased
    have hsplit := Nat.two_pow_pred_mul_two hes.1
    have hem := Nat.two_pow_pos E.esmax
    have hbias := bias_eq E.esmax
    have hbig : bigScale E = ((2 ^ (E.esmax - 1) : Nat) : Int) := by simp [bigScale]
    rw [he, ones] at hbiased
    omega
  have hsig := significand_le_of_scale_eq hmax hscale
  rw [hfs, hlog, Nat.sub_self, pow_zero, Nat.mul_one, ones] at hf
  rw [hlog] at hsig
  have hle := Nat.le_of_mul_le_mul_right hsig (Nat.two_pow_pos _)
  rw [pow_succ] at hle
  omega

theorem realUnum_normal : RealUnum E x (r2u E x) := by
  by_cases hn : x.norm.man.log2 ≤ E.fsmax
  · by_cases hpow : x.norm.man.log2 ≠ 0 ∨ ∀ k : Nat, k ≤ E.esmax - 1 → 1 - x.norm.scale ≠ 2 ^ k
    · have hes := esmin_leastSize (le_scale_of_normal hnorm) (scale_le_of_normal hnorm hmax)
      obtain ⟨hexpo, -, -⟩ := hes.biased
      have hfields := r2u_hasFields_of_exact hnorm hmax hpow hn hes
      exact (HasPayload.of_hasFields hfields).realUnum_of_exact (isSpecial_r2u_of_exact hnorm hmax hpow hn hes)
        (Nat.add_pos_left (Nat.mul_pos hexpo (Nat.two_pow_pos _)) _)
    · push Not at hpow
      obtain ⟨hone, k, hk, heq⟩ := hpow
      have hpayload := HasPayload.of_hasFields (r2u_hasFields_of_power hnorm hmax hone heq hk)
      have hroom := room_of_expo_zero (es := k + 1) (fs := 1) (f := 1) (Nat.le_add_left 1 k) (by decide)
      exact hpayload.realUnum_of_exact (hpayload.finiteUnum_of_room hroom).notSpecial (by decide)
  · have hn' : E.fsmax < x.norm.man.log2 := Nat.lt_of_not_le hn
    obtain ⟨hlo, hhi⟩ := roundedScale_range hnorm hmax
    have hes := esmin_leastSize hlo hhi
    obtain ⟨hexpo, -, -⟩ := hes.biased
    obtain ⟨v, hfields, heq⟩ := r2u_eq_stepBelow_of_inexact hnorm hmax hn' hes
    have hv := HasPayload.of_hasFields hfields
    obtain ⟨p, hp⟩ := Nat.exists_eq_add_of_le' (Nat.add_pos_left (Nat.mul_pos hexpo (Nat.two_pow_pos E.fsmax))
      (roundedSignificand E x.norm.man - 2 ^ E.fsmax))
    rw [hp] at hv
    rw [heq]
    exact (hv.stepBelow x.isNeg).realUnum_of_inexact hv.tagHolds.payload_lt

end

/-- Every unum `r2u` gives is a finite unum of the number's sign. -/
theorem r2u_realUnum (E : Env) (x : Dyad) : RealUnum E x (r2u E x) := by
  rcases (abs_nonneg x.toRat).eq_or_lt with hzero | hpos
  · rw [r2u_of_zero hzero.symm]
    exact realUnum_zero hzero.symm
  rcases lt_or_ge (maxreal E).toRat |x.toRat| with hgt | hmax
  · have hfields := r2u_hasFields_of_gt_maxreal hgt
    have hF : 2 ^ 1 ≤ 2 ^ E.fsmax := Nat.pow_le_pow_right two_pos (Nat.two_pow_pos _)
    have hroom := expo_mul_add_frac_lt (e := 2 ^ E.esmax - 1) (f := 2 ^ E.fsmax - 1) (es := E.esmax) (fs := E.fsmax)
      (Nat.sub_lt (Nat.two_pow_pos _) Nat.one_pos) (by omega)
    exact (HasPayload.of_hasFields hfields).realUnum_of_inexact (by omega)
  rcases lt_or_ge |x.toRat| (2 ^ smallsubExp E) with hlt | hsub
  · exact (HasPayload.of_hasFields (r2u_hasFields_of_lt_smallsub hpos hlt)).realUnum_of_inexact
      (room_of_expo_zero (Nat.two_pow_pos _) (Nat.two_pow_pos _))
  rcases lt_or_ge |x.toRat| (2 ^ (2 - bigScale E)) with hlt | hnorm
  · exact realUnum_subnormal hsub hlt
  · exact realUnum_normal hnorm hmax

end

/-! ### Slivers next to an exact unum (42_pack.md R163) -/

theorem expoOf_eq_payload_div (E : Env) (u : Unum) : expoOf E u = payloadOf E u / 2 ^ fsOf E u :=
  (payload_div (fracOf_lt E u)).symm

theorem fracOf_eq_payload_mod (E : Env) (u : Unum) : fracOf E u = payloadOf E u % 2 ^ fsOf E u :=
  (payload_mod (fracOf_lt E u)).symm

/-- Whether a unum is an infinity or NaN depends on its tag's sizes and its payload only. -/
theorem isSpecial_congr {E : Env} {u v : Unum} (hes : esOf E u = esOf E v) (hfs : fsOf E u = fsOf E v)
    (hp : payloadOf E u = payloadOf E v) : isSpecial E u = isSpecial E v := by
  rw [isSpecial, isSpecial, expoOf_eq_payload_div, expoOf_eq_payload_div, fracOf_eq_payload_mod, fracOf_eq_payload_mod,
    hes, hfs, hp]

/-- A canonical unum that is not NaN. -/
abbrev IsNumber (E : Env) (u : Unum) : Prop := Canonical E u ∧ isNan E u = false

theorem FiniteUnum.isNumber {E : Env} {s : Bool} {u : Unum} (h : FiniteUnum E s u) : IsNumber E u :=
  ⟨h.canonical, isNan_eq_false_of_isSpecial h.notSpecial⟩

theorem FiniteUnum.hasPayload_of_exact {E : Env} {s : Bool} {u : Unum} (h : FiniteUnum E s u)
    (hub : ubitOf E u = false) : HasPayload E u s (payloadOf E u) false (esOf E u) (fsOf E u) :=
  ⟨h.canonical, h.sign, rfl, hub, rfl, rfl⟩

theorem FiniteUnum.add_ubitmask_isNumber {E : Env} {s : Bool} {u : Unum} (h : FiniteUnum E s u)
    (hub : ubitOf E u = false) : IsNumber E (u + E.ubitmask) := by
  have habove := (h.hasPayload_of_exact hub).exact_add_ubitmask
  exact ⟨habove.canonical, isNan_eq_false_of_isSpecial
    ((isSpecial_congr habove.es habove.fs habove.payload).trans h.notSpecial)⟩

theorem FiniteUnum.sub_ubitmask_isNumber {E : Env} {s : Bool} {u : Unum} (h : FiniteUnum E s u)
    (hub : ubitOf E u = false) (hp : 0 < payloadOf E u) : IsNumber E (u - E.ubitmask) := by
  obtain ⟨p, hsucc⟩ := Nat.exists_eq_add_of_le' hp
  have hpayload := h.hasPayload_of_exact hub
  have hlt := payloadOf_lt E u
  rw [hsucc] at hpayload hlt
  exact (hpayload.exact_sub_ubitmask.finiteUnum_of_room hlt).isNumber

/-! ### The distinguished patterns -/

/-- The maximum tag with an all-ones payload: an infinity, or NaN. -/
theorem allOnes_hasFields (E : Env) (s ub : Bool) :
    HasFields E (mk E s (ones E.esmax) (ones E.fsmax) ub E.esmax E.fsmax) s (ones E.esmax) (ones E.fsmax) ub E.esmax
      E.fsmax :=
  mk_hasFields E s ub (Nat.two_pow_pos _) (le_refl _) (Nat.two_pow_pos _) (le_refl _)
    (Nat.sub_lt (Nat.two_pow_pos _) Nat.one_pos) (Nat.sub_lt (Nat.two_pow_pos _) Nat.one_pos)

theorem nanPattern_canonical (E : Env) (s : Bool) : Canonical E (nanPattern E s) := by
  exact (HasPayload.of_hasFields (allOnes_hasFields E s true)).canonical

theorem infPattern_isNumber (E : Env) (s : Bool) : IsNumber E (infPattern E s) := by
  have hpayload := HasPayload.of_hasFields (allOnes_hasFields E s false)
  exact ⟨hpayload.canonical, isNan_eq_false_of_exact hpayload.ubit⟩

theorem openInfPattern_isNumber (E : Env) (s : Bool) : IsNumber E (openInfPattern E s) := by
  obtain ⟨-, -, hfrac, -, -, -, hcanon⟩ := openInfPattern_hasFields E s
  have heven : 2 ∣ 2 ^ E.fsmax := dvd_pow_self 2 (Nat.two_pow_pos _).ne'
  exact ⟨hcanon, isNan_eq_false_of_isSpecial
    (isSpecial_eq_false_of_even_frac (by rw [hfrac]; exact Nat.dvd_sub heven (dvd_refl 2)))⟩

/-- The sliver from -1 to 0 (42_pack.md R164). -/
theorem belowZero_hasFields (E : Env) : HasFields E (mk E true 0 0 true 1 1) true 0 0 true 1 1 :=
  mk_hasFields E true true (le_refl 1) (Nat.two_pow_pos _) (le_refl 1) (Nat.two_pow_pos _) (by decide) (by decide)

theorem belowZero_isNumber (E : Env) : IsNumber E (mk E true 0 0 true 1 1) :=
  ((HasPayload.of_hasFields (belowZero_hasFields E)).finiteUnum_of_room (by decide)).isNumber

/-! ### The encoders, arm by arm (42_pack.md R164) -/

section
variable {E : Env} {p : Gnum}

section
variable (hinf : p.inf = true)
include hinf

theorem encl_of_negInf (hneg : p.val.isNeg = true) :
    encl E p = (if p.opn then openInfPattern E true else infPattern E true, false) := by simp [encl, hinf, hneg]

theorem encl_of_posInf (hneg : p.val.isNeg = false) :
    encl E p = (if p.opn then qnan E else infPattern E false, false) := by simp [encl, hinf, hneg]

theorem encr_of_negInf (hneg : p.val.isNeg = true) :
    encr E p = (if p.opn then qnan E else infPattern E true, false) := by simp [encr, hinf, hneg]

theorem encr_of_posInf (hneg : p.val.isNeg = false) :
    encr E p = (if p.opn then openInfPattern E false else infPattern E false, false) := by simp [encr, hinf, hneg]

end

section
variable (hfin : p.inf = false)
include hfin

theorem encl_of_inexact (hub : ubitOf E (r2u E p.val) = true) : encl E p = (r2u E p.val, true) := by
  simp [encl, hfin, hub]

theorem encr_of_inexact (hub : ubitOf E (r2u E p.val) = true) : encr E p = (r2u E p.val, true) := by
  simp [encr, hfin, hub]

variable (hub : ubitOf E (r2u E p.val) = false)
include hub

theorem encl_of_closed (hopn : p.opn = false) : encl E p = (r2u E p.val, false) := by simp [encl, hfin, hub, hopn]

theorem encr_of_closed (hopn : p.opn = false) : encr E p = (r2u E p.val, false) := by simp [encr, hfin, hub, hopn]

variable (hopn : p.opn = true)
include hopn

theorem encl_of_open_neg (hneg : p.val.isNeg = true) : encl E p = (r2u E p.val - E.ubitmask, false) := by
  simp [encl, hfin, hub, hopn, hneg]

theorem encl_of_open_nonneg (hneg : p.val.isNeg = false) : encl E p = (r2u E p.val + E.ubitmask, false) := by
  simp [encl, hfin, hub, hopn, hneg]

theorem encr_of_open_zero (hzero : p.val.man = 0) : encr E p = (mk E true 0 0 true 1 1, false) := by
  simp [encr, hfin, hub, hopn, hzero, Dyad.isZero]

theorem encr_of_open_neg (hneg : p.val.isNeg = true) : encr E p = (r2u E p.val + E.ubitmask, false) := by
  have hne : p.val.man ≠ 0 := fun hzero => by simp [Dyad.isNeg, hzero] at hneg
  simp [encr, hfin, hub, hopn, hneg, hne, Dyad.isZero]

theorem encr_of_open_pos (hneg : p.val.isNeg = false) (hne : p.val.man ≠ 0) :
    encr E p = (r2u E p.val - E.ubitmask, false) := by
  simp [encr, hfin, hub, hopn, hneg, hne, Dyad.isZero]

end

/-! ### Which unums the encoders give -/

theorem Dyad.abs_toRat_pos {x : Dyad} (h : x.man ≠ 0) : 0 < |x.toRat| := abs_pos.2 (mt Dyad.toRat_eq_zero_iff.1 h)

/-- A left end other than an open +∞ encodes to a number. -/
theorem encl_isNumber (h : p.inf = true → p.opn = true → p.val.isNeg = true) : IsNumber E (encl E p).1 := by
  have hreal := r2u_realUnum E p.val
  cases hinf : p.inf
  case true =>
    cases hneg : p.val.isNeg
    · have hopn : p.opn = false := Bool.eq_false_iff.2 fun ho => by rw [h hinf ho] at hneg; contradiction
      rw [encl_of_posInf hinf hneg, hopn]
      exact infPattern_isNumber E false
    · rw [encl_of_negInf hinf hneg]
      cases p.opn
      · exact infPattern_isNumber E true
      · exact openInfPattern_isNumber E true
  case false =>
    cases hub : ubitOf E (r2u E p.val)
    case true =>
      rw [encl_of_inexact hinf hub]
      exact hreal.isNumber
    case false =>
      cases hopn : p.opn
      · rw [encl_of_closed hinf hub hopn]
        exact hreal.isNumber
      · cases hneg : p.val.isNeg
        · rw [encl_of_open_nonneg hinf hub hopn hneg]
          exact hreal.add_ubitmask_isNumber hub
        · have hne : p.val.man ≠ 0 := fun hzero => by simp [Dyad.isNeg, hzero] at hneg
          rw [encl_of_open_neg hinf hub hopn hneg]
          exact hreal.sub_ubitmask_isNumber hub (hreal.payload_pos hub (Dyad.abs_toRat_pos hne))

/-- A right end other than an open −∞ encodes to a number. -/
theorem encr_isNumber (h : p.inf = true → p.opn = true → p.val.isNeg = false) : IsNumber E (encr E p).1 := by
  have hreal := r2u_realUnum E p.val
  cases hinf : p.inf
  case true =>
    cases hneg : p.val.isNeg
    · rw [encr_of_posInf hinf hneg]
      cases p.opn
      · exact infPattern_isNumber E false
      · exact openInfPattern_isNumber E false
    · have hopn : p.opn = false := Bool.eq_false_iff.2 fun ho => by rw [h hinf ho] at hneg; contradiction
      rw [encr_of_negInf hinf hneg, hopn]
      exact infPattern_isNumber E true
  case false =>
    cases hub : ubitOf E (r2u E p.val)
    case true =>
      rw [encr_of_inexact hinf hub]
      exact hreal.isNumber
    case false =>
      cases hopn : p.opn
      · rw [encr_of_closed hinf hub hopn]
        exact hreal.isNumber
      · by_cases hzero : p.val.man = 0
        · rw [encr_of_open_zero hinf hub hopn hzero]
          exact belowZero_isNumber E
        · cases hneg : p.val.isNeg
          · rw [encr_of_open_pos hinf hub hopn hneg hzero]
            exact hreal.sub_ubitmask_isNumber hub (hreal.payload_pos hub (Dyad.abs_toRat_pos hzero))
          · rw [encr_of_open_neg hinf hub hopn hneg]
            exact hreal.add_ubitmask_isNumber hub

theorem encl_canonical (E : Env) (p : Gnum) : Canonical E (encl E p).1 := by
  by_cases h : p.inf = true → p.opn = true → p.val.isNeg = true
  · exact (encl_isNumber h).1
  · push Not at h
    obtain ⟨hinf, hopn, hneg⟩ := h
    rw [encl_of_posInf hinf (Bool.eq_false_iff.2 hneg), hopn]
    exact nanPattern_canonical E false

theorem encr_canonical (E : Env) (p : Gnum) : Canonical E (encr E p).1 := by
  by_cases h : p.inf = true → p.opn = true → p.val.isNeg = false
  · exact (encr_isNumber h).1
  · push Not at h
    obtain ⟨hinf, hopn, hneg⟩ := h
    rw [encr_of_negInf hinf (Bool.eq_true_of_not_eq_false hneg), hopn]
    exact nanPattern_canonical E false

end

/-! ### The commands (42_pack.md R156, R157) -/

theorem State.writeU_qnan (s : State) (i : UReg) : s.writeU i (qnan s.env) = { s with u := s.u.set i (qnan s.env) } :=
  State.writeU_of_canonical (nanPattern_canonical s.env false) i

section
variable {s : State} (hv : s.env.v = true) {ra : GReg}
include hv

theorem exec_encl_of_nan (h : (s.readG ra).nan = true) (rd : UReg) :
    exec (.encl rd ra) s = .next { s with
      u := s.u.set rd (qnan s.env), status := { s.status with inex := false, nanf := true } } := by
  simp only [exec, execEncl, State.needEnv_of_env hv, h, if_true, State.writeU_qnan, State.setInex, State.setNanf]

theorem exec_encr_of_nan (h : (s.readG ra).nan = true) (rd : UReg) :
    exec (.encr rd ra) s = .next { s with
      u := s.u.set rd (qnan s.env), status := { s.status with inex := false, nanf := true } } := by
  simp only [exec, execEncr, State.needEnv_of_env hv, h, if_true, State.writeU_qnan, State.setInex, State.setNanf]

theorem exec_encl_of_number (h : (s.readG ra).nan = false) (rd : UReg) :
    exec (.encl rd ra) s = .next { s with
      u := s.u.set rd (encl s.env (s.readG ra).l).1,
      status := { s.status with
        inex := (encl s.env (s.readG ra).l).2, nanf := isNan s.env (encl s.env (s.readG ra).l).1 } } := by
  have hwrite := State.writeU_of_canonical (encl_canonical s.env (s.readG ra).l) rd
  simp only [exec, execEncl, State.needEnv_of_env hv, h, Bool.false_eq_true, if_false, hwrite, State.setInex,
    State.setNanf]

theorem exec_encr_of_number (h : (s.readG ra).nan = false) (rd : UReg) :
    exec (.encr rd ra) s = .next { s with
      u := s.u.set rd (encr s.env (s.readG ra).r).1,
      status := { s.status with
        inex := (encr s.env (s.readG ra).r).2, nanf := isNan s.env (encr s.env (s.readG ra).r).1 } } := by
  have hwrite := State.writeU_of_canonical (encr_canonical s.env (s.readG ra).r) rd
  simp only [exec, execEncr, State.needEnv_of_env hv, h, Bool.false_eq_true, if_false, hwrite, State.setInex,
    State.setNanf]

end

/-! ### The obligation -/

theorem Dyad.isNeg_eq_false_of_nonneg {x : Dyad} (h : 0 ≤ x.toRat) : x.isNeg = false :=
  Bool.eq_false_iff.2 fun hneg => h.not_gt (Dyad.isNeg_iff.1 hneg)

/-- Settles O46. What the encoders give is canonical for every endpoint, so the register write changes nothing; each
arm of the rule is an arm of the encoder, its condition on the number read off the significand and sign. -/
theorem endpointEncodeCommands : Obligations.EndpointEncodeCommands := by
  unfold Obligations.EndpointEncodeCommands
  refine ⟨fun s rd ra hv => ?commands, fun E p => ?encoders⟩
  case commands =>
    exact ⟨Laws.EncodeOpcode.encl rd ra, Laws.EncodeOpcode.encr rd ra,
      fun h => ⟨exec_encl_of_nan hv h rd, exec_encr_of_nan hv h rd⟩,
      fun h => ⟨exec_encl_of_number hv h rd, exec_encr_of_number hv h rd⟩⟩
  case encoders =>
    intro x u half
    have hhalf : half = E.ubitmask := (ubitmask_eq E).symm
    have hneg (h : x < 0) : p.val.isNeg = true := Dyad.isNeg_iff.2 h
    have hnonneg (h : 0 ≤ x) : p.val.isNeg = false := Dyad.isNeg_eq_false_of_nonneg h
    rw [hhalf]
    refine ⟨fun hinf h => ⟨encl_of_negInf hinf (hneg h), encr_of_negInf hinf (hneg h)⟩,
      fun hinf h => ⟨encl_of_posInf hinf (hnonneg h), encr_of_posInf hinf (hnonneg h)⟩,
      fun hfin hub => ⟨encl_of_inexact hfin hub, encr_of_inexact hfin hub⟩,
      fun hfin hub hopn => ⟨encl_of_closed hfin hub hopn, encr_of_closed hfin hub hopn⟩,
      fun hfin hub hopn => ⟨fun h => encl_of_open_nonneg hfin hub hopn (hnonneg h),
        fun h => encl_of_open_neg hfin hub hopn (hneg h), fun h => ?openPos,
        fun h => encr_of_open_neg hfin hub hopn (hneg h), fun h => ?openZero⟩⟩
    case openPos => exact encr_of_open_pos hfin hub hopn (hnonneg h.le) (mt Dyad.toRat_eq_zero_iff.2 h.ne')
    case openZero =>
      rw [encr_of_open_zero hfin hub hopn (Dyad.toRat_eq_zero_iff.1 h)]
      exact ⟨rfl, belowZero_hasFields E⟩

end Sys2Proof.Machine
end

section
/-! PROOF. The unums the unification controller makes (44_unify.md R212 to R217): demotion, promotion and the nudges
keep a unum canonical and its sign bit clear, so that the bound `unify` gives for a canonical bound is canonical. -/

namespace Sys2Proof.Machine

/-! ### Exponent demotion (41_tag.md R133) -/

/-- The four arms of exponent demotion, `Q = 2^(es-2)`: zero or subnormal, a normal that becomes subnormal, a normal
that stays one, a normal cut to the widest payload. -/
theorem demePayload_cases (e f es fs : Nat) :
    (e = 0 ∧ (demePayload e f es fs).e = 0 ∧ (demePayload e f es fs).f = f / 2 ^ 2 ^ (es - 2)) ∨
    (e ≠ 0 ∧ e ≤ 2 ^ (es - 2) ∧ (demePayload e f es fs).e = 0 ∧
      (demePayload e f es fs).f = (2 ^ fs + f) / 2 ^ (2 ^ (es - 2) - e + 1)) ∨
    (2 ^ (es - 2) < e ∧ e < 3 * 2 ^ (es - 2) ∧ (demePayload e f es fs).e = e - 2 ^ (es - 2) ∧
      (demePayload e f es fs).f = f) ∨
    (3 * 2 ^ (es - 2) ≤ e ∧ (demePayload e f es fs).e = 2 ^ (es - 1) - 1 ∧
      (demePayload e f es fs).f = 2 ^ fs - 1) := by
  by_cases he : e = 0
  · exact .inl ⟨he, by simp [demePayload, he], by simp [demePayload, he]⟩
  by_cases hsub : e ≤ 2 ^ (es - 2)
  · exact .inr (.inl ⟨he, hsub, by simp [demePayload, he, hsub], by simp [demePayload, he, hsub]⟩)
  by_cases hnorm : e < 3 * 2 ^ (es - 2)
  · exact .inr (.inr (.inl ⟨by omega, hnorm, by simp [demePayload, he, hsub, hnorm],
      by simp [demePayload, he, hsub, hnorm]⟩))
  · exact .inr (.inr (.inr ⟨by omega, by simp [demePayload, he, hsub, hnorm],
      by simp [demePayload, he, hsub, hnorm]⟩))

theorem demePayload_expo_lt {e es : Nat} (hes : 2 ≤ es) (f fs : Nat) :
    (demePayload e f es fs).e < 2 ^ (es - 1) := by
  have hhalf : 2 ^ (es - 1) = 2 * 2 ^ (es - 2) := by
    rw [← pow_succ']
    congr 1
    omega
  have hQ := Nat.two_pow_pos (es - 2)
  obtain ⟨-, h, -⟩ | ⟨-, -, h, -⟩ | ⟨-, hlt, h, -⟩ | ⟨-, h, -⟩ := demePayload_cases e f es fs <;> omega

theorem demePayload_frac_lt {f fs : Nat} (hf : f < 2 ^ fs) (e es : Nat) : (demePayload e f es fs).f < 2 ^ fs := by
  obtain ⟨-, -, h⟩ | ⟨-, -, -, h⟩ | ⟨-, -, -, h⟩ | ⟨-, -, h⟩ := demePayload_cases e f es fs <;> rw [h]
  · exact (Nat.div_le_self _ _).trans_lt hf
  · refine Nat.div_lt_of_lt_mul ?_
    have htwo : 2 ≤ 2 ^ (2 ^ (es - 2) - e + 1) := Nat.le_self_pow (Nat.succ_ne_zero _) 2
    nlinarith
  · exact hf
  · exact Nat.sub_lt (Nat.two_pow_pos fs) Nat.one_pos

theorem deme_hasFields {E : Env} {u : Unum} (h : demeStays E u = false) :
    HasFields E (deme E u) (signOf E u) (demeOf E u).e (demeOf E u).f (ubitOf E u || (demeOf E u).lost) (esOf E u - 1)
      (fsOf E u) := by
  have hes1 : esOf E u ≠ 1 := fun h1 => by simp [demeStays, h1] at h
  have hpos := esOf_pos E u
  have hle := esOf_le E u
  rw [deme, h, if_neg Bool.false_ne_true]
  exact mk_hasFields E _ _ (fsOf_pos E u) (fsOf_le E u) (by omega) (by omega)
    (demePayload_frac_lt (fracOf_lt E u) _ _) (demePayload_expo_lt (by omega) _ _)

/-! ### Canonical unums with the sign bit clear -/

/-- A canonical unum whose sign bit is clear. -/
abbrev NonnegUnum (E : Env) (u : Unum) : Prop := Canonical E u ∧ signOf E u = false

theorem HasPayload.nonnegUnum {E : Env} {u : Unum} {p : Nat} {ub : Bool} {es fs : Nat}
    (h : HasPayload E u false p ub es fs) : NonnegUnum E u := ⟨h.canonical, h.sign⟩

section
variable {E : Env} {u : Unum}

theorem NonnegUnum.demf (h : NonnegUnum E u) : NonnegUnum E (demf E u) := by
  cases hstays : demfStays E u
  · obtain ⟨hsign, -, -, -, -, -, hcanon⟩ := demf_hasFields hstays
    exact ⟨hcanon, hsign.trans h.2⟩
  · rw [Machine.demf, if_pos hstays]
    exact h

theorem NonnegUnum.deme (h : NonnegUnum E u) : NonnegUnum E (deme E u) := by
  cases hstays : demeStays E u
  · obtain ⟨hsign, -, -, -, -, -, hcanon⟩ := deme_hasFields hstays
    exact ⟨hcanon, hsign.trans h.2⟩
  · rw [Machine.deme, if_pos hstays]
    exact h

/-- The sign bit set on a unum whose sign bit is clear. -/
theorem NonnegUnum.setSign_canonical (h : NonnegUnum E u) : Canonical E (setSign E u) := by
  obtain ⟨hcanon, hsign⟩ := h
  exact (HasPayload.setSign ⟨hcanon, hsign, rfl, rfl, rfl, rfl⟩).canonical

/-- A canonical unum with the sign bit clear that has, when inexact, a next payload: what a nudge starts from. -/
structure NudgeBase (E : Env) (u : Unum) : Prop where
  nonneg : NonnegUnum E u
  room : ubitOf E u = true → payloadOf E u + 1 < 2 ^ (fsOf E u + esOf E u)

theorem FiniteUnum.nudgeBase (h : FiniteUnum E false u) : NudgeBase E u := ⟨⟨h.canonical, h.sign⟩, h.room⟩

theorem NudgeBase.of_exact (h : NonnegUnum E u) (hub : ubitOf E u = false) : NudgeBase E u :=
  ⟨h, fun hx => by rw [hub] at hx; contradiction⟩

theorem NudgeBase.promf (h : NudgeBase E u) : NudgeBase E (promf E u) := by
  by_cases hmax : fsOf E u = E.fsmax
  · rw [promf_of_max hmax]
    exact h
  · obtain ⟨hsign, -, -, hubit, -, -, hcanon⟩ := promf_hasFields hmax
    exact .of_exact ⟨hcanon, hsign.trans h.nonneg.2⟩ hubit

theorem NudgeBase.prome (h : NudgeBase E u) : NudgeBase E (prome E u) := by
  by_cases hmax : esOf E u = E.esmax
  · rw [prome_of_max hmax]
    exact h
  · obtain ⟨hsign, -, -, hubit, -, -, hcanon⟩ := prome_hasFields hmax
    exact .of_exact ⟨hcanon, hsign.trans h.nonneg.2⟩ hubit

theorem NudgeBase.promoteTo (h : NudgeBase E u) (es' fs' : Nat) : NudgeBase E (promoteTo E u es' fs') :=
  times_keeps (fun _ => NudgeBase.promf) _ (times_keeps (fun _ => NudgeBase.prome) _ h)

theorem zero_nonnegUnum (E : Env) : NonnegUnum E 0 := by
  simp [NonnegUnum, Canonical, signOf, slice]

/-- One `ubitmask` below an exact unum of payload 0 is, cut at 0, the unum 0. -/
theorem HasPayload.zero_sub_ubitmask {es fs : Nat} (h : HasPayload E u false 0 false es fs) : u - E.ubitmask = 0 := by
  have htag := h.tagHolds
  have hfs : fs - 1 < 2 ^ E.fss.toNat := by
    have hle : fs ≤ 2 ^ E.fss.toNat := htag.fs_le
    have hpos := htag.fs_pos
    omega
  have hes : es - 1 < 2 ^ E.ess.toNat := by
    have hle : es ≤ 2 ^ E.ess.toNat := htag.es_le
    have hpos := htag.es_pos
    omega
  have hlt := append_lt hfs hes
  rw [h.eq_ofPayload, ofPayload_eq, ubitmask_eq, add_comm E.ess.toNat]
  simp only [Bool.toNat_false, Nat.zero_mul, Nat.add_zero]
  exact Nat.sub_eq_zero_of_le hlt.le

/-- The left nudge keeps a unum canonical and its sign bit clear (44_unify.md R214). -/
theorem NudgeBase.nudgeL (h : NudgeBase E u) (o : Bool) : NonnegUnum E (nudgeL E u o) := by
  obtain ⟨⟨hcanon, hsign⟩, hroom⟩ := h
  cases hub : ubitOf E u
  case true =>
    have hpayload : HasPayload E u false (payloadOf E u) true (esOf E u) (fsOf E u) :=
      ⟨hcanon, hsign, rfl, hub, rfl, rfl⟩
    cases o
    · exact hpayload.inexact_sub_ubitmask.nonnegUnum
    · exact (hpayload.inexact_add_ubitmask (hroom hub)).nonnegUnum
  case false =>
    have hpayload : HasPayload E u false (payloadOf E u) false (esOf E u) (fsOf E u) :=
      ⟨hcanon, hsign, rfl, hub, rfl, rfl⟩
    cases o
    · cases hp : payloadOf E u with
      | zero =>
        rw [hp] at hpayload
        rw [Machine.nudgeL, if_neg Bool.false_ne_true, hpayload.zero_sub_ubitmask]
        exact zero_nonnegUnum E
      | succ p =>
        rw [hp] at hpayload
        exact hpayload.exact_sub_ubitmask.nonnegUnum
    · exact hpayload.exact_add_ubitmask.nonnegUnum

end

/-! ### The candidates of steps 6 to 9 (44_unify.md R212) -/

section
variable {E : Env}

theorem zerocand_nonnegUnum (E : Env) (r : Dyad) : NonnegUnum E (zerocand E r) := by
  have hem : 1 ≤ E.esmax := Nat.two_pow_pos _
  have hfields := mk_hasFields E false (e := 0) (f := 0) true (le_refl 1) (Nat.two_pow_pos _)
    (es := min E.esmax ((1 - ceilLog2 r).toNat.log2 + 1)) (by omega) (min_le_left _ _) (by decide) (Nat.two_pow_pos _)
  exact (HasPayload.of_hasFields hfields).nonnegUnum

theorem demoteToWidest_nonnegUnum {k : Nat} {u v : Unum} {ei fi : Nat} (h : NonnegUnum E u)
    (hv : (demoteToWidest E k u ei fi).unum = some v) : NonnegUnum E v := by
  induction k generalizing u ei fi with
  | zero => cases hv
  | succ k ih =>
    rw [demoteToWidest] at hv
    split at hv
    next =>
      cases hv
      exact h
    next =>
      split at hv
      next => exact ih h.deme hv
      next =>
        split at hv
        next => exact ih h.demf hv
        next => cases hv

theorem exponentPhase_nonnegUnum {k : Nat} {ul ur : Unum} {ei : Nat} (h : NonnegUnum E ul) :
    NonnegUnum E (exponentPhase E k ul ur ei).1 := by
  induction k generalizing ul ur ei with
  | zero => exact h
  | succ k ih =>
    rw [exponentPhase]
    split
    next =>
      split
      next => exact ih h.deme
      next => exact h
    next => exact h

theorem fractionPhase_nonnegUnum {k : Nat} {ul ur : Unum} {fi : Nat} (h : NonnegUnum E ul) :
    NonnegUnum E (fractionPhase E k ul ur fi).1 := by
  induction k generalizing ul ur fi with
  | zero => exact h
  | succ k ih =>
    rw [fractionPhase]
    split
    next => exact ih h.demf
    next => exact h

theorem searchBoth_nonnegUnum {ul ur v : Unum} (h : NonnegUnum E ul) (hv : (searchBoth E ul ur).unum = some v) :
    NonnegUnum E v := by
  simp only [searchBoth] at hv
  split at hv
  next =>
    cases hv
    exact fractionPhase_nonnegUnum (exponentPhase_nonnegUnum h)
  next => cases hv

section
variable {g : Gbnd} {v : Unum} (hl : g.l.val.isNeg = false)
include hl

theorem r2u_nudgeBase : NudgeBase E (r2u E g.l.val) := by
  have hreal := (r2u_realUnum E g.l.val).toFiniteUnum
  rw [hl] at hreal
  exact hreal.nudgeBase

theorem candidateInf_nonnegUnum (hv : (candidateInf E g).unum = some v) : NonnegUnum E v := by
  simp only [candidateInf] at hv
  split at hv
  next => cases hv
  next =>
    split at hv
    next =>
      cases hv
      exact (HasPayload.of_hasFields (openInfPattern_hasFields E false)).nonnegUnum
    next => exact demoteToWidest_nonnegUnum (((r2u_nudgeBase hl).promoteTo _ _).nudgeL _) hv

theorem candidateFinite_nonnegUnum (hv : (candidateFinite E g).unum = some v) : NonnegUnum E v := by
  have hul := ((r2u_nudgeBase (E := E) hl).promoteTo (esOf E (r2u E g.r.val)) (fsOf E (r2u E g.r.val))).nudgeL g.l.opn
  simp only [candidateFinite] at hv
  split at hv
  next =>
    cases hv
    exact hul
  next => exact searchBoth_nonnegUnum hul hv

theorem candidate_nonnegUnum (hv : (candidate E g).unum = some v) : NonnegUnum E v := by
  rw [candidate] at hv
  split at hv
  next =>
    cases hv
    exact zerocand_nonnegUnum E _
  next =>
    split at hv
    next => exact candidateInf_nonnegUnum hl hv
    next => exact candidateFinite_nonnegUnum hl hv

end

end

/-! ### The bound `unify` gives -/

/-- An endpoint that is not below 0 has no negative value. -/
theorem isNeg_eq_false_of_cmpV_zeroEnd {p : Gnum} (h : cmpV p zeroEnd ≠ .lt) : p.val.isNeg = false := by
  rw [Bool.eq_false_iff]
  intro hneg
  apply h
  cases hinf : p.inf
  · have hlt : p.val.cmp Dyad.zero.norm = .lt := by
      rw [Dyad.cmp_eq_compare_toRat, compare_lt_iff_lt, Dyad.toRat_norm,
        (Dyad.toRat_eq_zero_iff (x := Dyad.zero)).2 rfl]
      exact Dyad.isNeg_iff.1 hneg
    simpa [cmpV, Gnum.ext, hinf, zeroEnd, fin, Ext.cmp] using hlt
  · simp [cmpV, Gnum.ext, hinf, hneg, zeroEnd, fin, Ext.cmp]

section
variable {E : Env} {b : Ubound} (hb : CanonicalBound E b)
include hb

theorem unifyPositive_canonical (g : Gbnd) (neg : Bool) : CanonicalBound E (unifyPositive E b g neg).bound := by
  unfold unifyPositive
  split
  next => exact hb
  next hcond =>
    have hl : g.l.val.isNeg = false := isNeg_eq_false_of_cmpV_zeroEnd fun hlt => hcond (by simp [hlt])
    simp only
    split
    next => exact hb
    next u hu =>
      have hnonneg := candidate_nonnegUnum hl hu
      split
      next =>
        cases neg
        · exact canonicalBound_single hnonneg.1
        · exact canonicalBound_single hnonneg.setSign_canonical
      next => exact hb

/-- The bound `unify` gives for a canonical bound is canonical. -/
theorem unify_canonical : CanonicalBound E (unify E b).bound := by
  have hsmaller : Canonical E (if numbits E b.r < numbits E b.l then b.r else b.l) := by
    split
    · exact hb.2
    · exact hb.1
  simp only [unify]
  split
  next => exact hb
  next =>
    split
    next => exact hb
    next =>
      split
      next => exact hb
      next =>
        split
        next => exact hb
        next =>
          split
          next => exact canonicalBound_single hsmaller
          next =>
            split
            next => exact unifyPositive_canonical hb _ _
            next => exact unifyPositive_canonical hb _ _

end

end Sys2Proof.Machine
end

section
/-! PROOF. PACK (42_pack.md R158, R168; 44_unify.md R225): the arms of `pack`, the command on each, and O48. -/

namespace Sys2Proof.Machine

/-! ### The ends of a well-formed interval (42_pack.md R164) -/

section
variable {g : Gbnd} (h : g.Proper)
include h

/-- Nothing lies to the right of an open +∞ left end. -/
theorem Gbnd.Proper.left_not_open_posInf (hinf : g.l.inf = true) (hopn : g.l.opn = true) : g.l.val.isNeg = true := by
  obtain ⟨-, hill⟩ := h
  cases hneg : g.l.val.isNeg
  case true => rfl
  case false =>
    have hext : g.l.ext = .pinf := by simp [Gnum.ext, hinf, hneg]
    have hlt : cmpE g.r .right g.l .left = .lt := by
      rw [cmpE, cmpV, hext, hopn]
      cases g.r.ext <;> cases g.r.opn <;> rfl
    simp [illformed, hlt] at hill

/-- Nothing lies to the left of an open −∞ right end. -/
theorem Gbnd.Proper.right_not_open_negInf (hinf : g.r.inf = true) (hopn : g.r.opn = true) : g.r.val.isNeg = false := by
  obtain ⟨-, hill⟩ := h
  cases hneg : g.r.val.isNeg
  case false => rfl
  case true =>
    have hext : g.r.ext = .ninf := by simp [Gnum.ext, hinf, hneg]
    have hlt : cmpE g.r .right g.l .left = .lt := by
      rw [cmpE, cmpV, hext, hopn]
      cases g.l.ext <;> cases g.l.opn <;> rfl
    simp [illformed, hlt] at hill

theorem Gbnd.Proper.not_nan_or_illformed : (g.nan || illformed g) = false := by
  obtain ⟨hnan, hill⟩ := h
  rw [hnan, hill, Bool.false_or]

end

/-! ### The arms of `pack` (42_pack.md R168) -/

/-- The pair of a well-formed interval's encoded ends. -/
def encodedPair (E : Env) (g : Gbnd) : Ubound := { p := true, l := (encl E g.l).1, r := (encr E g.r).1 }

theorem encodedPair_canonical (E : Env) (g : Gbnd) : CanonicalBound E (encodedPair E g) :=
  ⟨encl_canonical E g.l, encr_canonical E g.r⟩

section
variable {E : Env} {g : Gbnd}

theorem pack_of_improper (h : g.nan = true ∨ illformed g = true) : pack E g = ⟨single (qnan E), none⟩ := by
  rw [pack, if_pos (Bool.or_eq_true_iff.2 h)]

theorem pack_of_same (h : g.Proper) (hsame : (encl E g.l).1 = (encr E g.r).1) (hopn : g.l.opn = g.r.opn) :
    pack E g = ⟨single (encl E g.l).1, none⟩ := by
  simp only [pack, h.not_nan_or_illformed, Bool.false_eq_true, if_false, if_pos (And.intro hsame hopn)]

section
variable (h : g.Proper) (hdiff : ¬ ((encl E g.l).1 = (encr E g.r).1 ∧ g.l.opn = g.r.opn))
include h hdiff

theorem pack_of_unified (hp : (unify E (encodedPair E g)).bound.p = false)
    (hsame : identical (b2g E (unify E (encodedPair E g)).bound) g = true) :
    pack E g = ⟨(unify E (encodedPair E g)).bound, some (unify E (encodedPair E g))⟩ := by
  rw [encodedPair] at hp hsame ⊢
  simp only [pack, h.not_nan_or_illformed, Bool.false_eq_true, if_false, if_neg hdiff, hp, hsame, Bool.not_false,
    Bool.true_and, if_true]

theorem pack_of_not_unified (hkept : ¬ ((unify E (encodedPair E g)).bound.p = false ∧
    identical (b2g E (unify E (encodedPair E g)).bound) g = true)) :
    pack E g = ⟨encodedPair E g, some (unify E (encodedPair E g))⟩ := by
  have htest : (!(unify E (encodedPair E g)).bound.p &&
      identical (b2g E (unify E (encodedPair E g)).bound) g) = false := by
    rw [Bool.eq_false_iff]
    simpa using hkept
  rw [encodedPair] at htest ⊢
  simp only [pack, h.not_nan_or_illformed, Bool.false_eq_true, if_false, if_neg hdiff, htest]

end

end

/-! ### The command (42_pack.md R158) -/

section
variable {s : State} (hv : s.env.v = true) {ra : GReg} {b : Ubound} (hb : CanonicalBound s.env b)
include hv hb

theorem exec_pack_of_no_run (hk : pack s.env (s.readG ra) = ⟨b, none⟩) (rd : BReg) :
    exec (.pack rd ra) s = .next { s with
      b := s.b.set rd b, uctl := s.uctl,
      status := { s.status with uni := !b.p, nanf := !b.p && isNan s.env b.l } } := by
  simp only [exec, execPack, State.needEnv_of_env hv, hk, State.writeB_of_canonical hb, State.packUctl, State.setUni,
    State.setNanf]

theorem exec_pack_of_run {r : Unified} (hk : pack s.env (s.readG ra) = ⟨b, some r⟩) (rd : BReg) :
    exec (.pack rd ra) s = .next { s with
      b := s.b.set rd b, uctl := r.uctl,
      status := { s.status with uni := !b.p, nanf := !b.p && isNan s.env b.l } } := by
  simp only [exec, execPack, State.needEnv_of_env hv, hk, State.writeB_of_canonical hb, State.packUctl, State.writeUctl,
    State.setUni, State.setNanf]

end

/-- Settles O48. Each case of the rule is an arm of `pack`; the bound of each is canonical and written as it
is. -/
theorem packCommand : Obligations.PackCommand := by
  unfold Obligations.PackCommand
  intro s rd ra hv E g ul ur c kept ran gives
  have hpair := encodedPair_canonical E g
  refine ⟨Laws.EncodeOpcode.pack rd ra, fun h => ⟨?left, ?right⟩, fun h => ?improper, fun h hsame hopn => ?same,
    fun h hdiff hkept => ?unified, fun h hdiff hkept => ?pair⟩
  case left => exact (encl_isNumber h.left_not_open_posInf).2
  case right => exact (encr_isNumber h.right_not_open_negInf).2
  case improper =>
    exact exec_pack_of_no_run hv (canonicalBound_single (nanPattern_canonical E false)) (pack_of_improper h) rd
  case same =>
    exact exec_pack_of_no_run hv (canonicalBound_single (encl_canonical E g.l)) (pack_of_same h hsame hopn) rd
  case unified =>
    obtain ⟨hp, hsame⟩ := hkept
    exact exec_pack_of_run hv (unify_canonical hpair) (pack_of_unified h hdiff hp hsame) rd
  case pair => exact exec_pack_of_run hv hpair (pack_of_not_unified h hdiff hkept) rd

end Sys2Proof.Machine
end

section
/-! PROOF. The endpoint order (43_compare_select.md R181 to R183): an end is ranked by its number, then by its order
position, `cmpE` compares ranks, and the rank of an end is decided by the set it bounds; O51. -/

namespace Sys2Proof.Machine

/-! ### The number of an endpoint (43_compare_select.md R181) -/

theorem coe_rat_strictMono : StrictMono fun x : ℚ => ((x : WithTop ℚ) : ExtNum) :=
  WithBot.coe_strictMono.comp WithTop.coe_strictMono

/-- The arms of `Ext.cmp`: −∞ below every number, +∞ above, and two numbers by their rationals. -/
theorem Ext.cmp_compares : ∀ a b : Ext, (a.cmp b).Compares a.toNum b.toNum
  | .ninf, .ninf => rfl
  | .ninf, .fin x => WithBot.bot_lt_coe (x.toRat : WithTop ℚ)
  | .ninf, .pinf => WithBot.bot_lt_coe (⊤ : WithTop ℚ)
  | .fin x, .ninf => WithBot.bot_lt_coe (x.toRat : WithTop ℚ)
  | .fin x, .fin y => by
    rw [← compare_iff, Ext.cmp, Dyad.cmp_eq_compare_toRat, ← cmp_eq_compare, ← cmp_eq_compare]
    exact coe_rat_strictMono.cmp_map_eq x.toRat y.toRat
  | .fin x, .pinf => WithBot.coe_lt_coe.2 (WithTop.coe_lt_top x.toRat)
  | .pinf, .ninf => WithBot.bot_lt_coe (⊤ : WithTop ℚ)
  | .pinf, .fin x => WithBot.coe_lt_coe.2 (WithTop.coe_lt_top x.toRat)
  | .pinf, .pinf => rfl

theorem cmpV_eq_compare_toNum (p q : Gnum) : cmpV p q = compare p.toNum q.toNum :=
  ((compare_iff ..).2 (Ext.cmp_compares p.ext q.ext)).symm

theorem Gnum.toNum_eq (p : Gnum) :
    p.toNum = if p.inf then (if p.val.toRat < 0 then (⊥ : ExtNum) else ((⊤ : WithTop ℚ) : ExtNum))
      else ((p.val.toRat : WithTop ℚ) : ExtNum) := by
  cases hinf : p.inf
  · simp [Gnum.toNum, Gnum.ext, hinf, Ext.toNum]
  · by_cases hneg : p.val.toRat < 0 <;> simp [Gnum.toNum, Gnum.ext, hinf, Dyad.isNeg_eq_decide, hneg, Ext.toNum]

/-! ### The rank of a sided end (43_compare_select.md R182, R183) -/

/-- An end's number with its order position, in lexicographic order: the linear order behind `cmpE`. -/
def Gnum.rank (p : Gnum) (sd : Side) : ExtNum ×ₗ Nat := toLex (p.toNum, sd.pos p.opn)

theorem cmpE_eq_compare_rank (p : Gnum) (sp : Side) (q : Gnum) (sq : Side) :
    cmpE p sp q sq = compare (p.rank sp) (q.rank sq) := by
  rw [cmpE, cmpV_eq_compare_toNum]
  rfl

theorem cmpE_eq_cmpV {p q : Gnum} (h : cmpV p q ≠ .eq) (sp sq : Side) : cmpE p sp q sq = cmpV p q := by
  cases hv : cmpV p q
  case eq => exact absurd hv h
  all_goals rw [cmpE, hv]; rfl

theorem cmpE_eq_compare_pos {p q : Gnum} (h : cmpV p q = .eq) (sp sq : Side) :
    cmpE p sp q sq = compare (sp.pos p.opn) (sq.pos q.opn) := by
  rw [cmpE, h]
  rfl

theorem cmpE_self (p : Gnum) (sp : Side) : cmpE p sp p sp = .eq := by
  rw [cmpE_eq_compare_rank, compare_eq_iff_eq]

theorem cmpE_swap (p : Gnum) (sp : Side) (q : Gnum) (sq : Side) : cmpE q sq p sp = (cmpE p sp q sq).swap := by
  rw [cmpE_eq_compare_rank, cmpE_eq_compare_rank]
  exact Std.OrientedOrd.eq_swap

theorem cmpE_trans {p q r : Gnum} {sp sq sr : Side} (hpq : cmpE p sp q sq ≠ .gt) (hqr : cmpE q sq r sr ≠ .gt) :
    cmpE p sp r sr ≠ .gt := by
  rw [cmpE_eq_compare_rank, compare_le_iff_le] at *
  exact hpq.trans hqr

/-! ### What a tie on one side says -/

theorem Side.pos_injective (sd : Side) : Function.Injective sd.pos := by
  cases sd <;> decide

/-- Two ends of one side tie when they agree in number and openness. -/
theorem cmpE_eq_eq_iff (p q : Gnum) (sd : Side) :
    cmpE p sd q sd = .eq ↔ p.toNum = q.toNum ∧ p.opn = q.opn := by
  rw [cmpE, Ordering.then_eq_eq, cmpV_eq_compare_toNum, compare_eq_iff_eq, compare_eq_iff_eq, sd.pos_injective.eq_iff]

section
variable {α : Type} [LinearOrder α] [DenselyOrdered α]

/-- A lower end that admits all that another admits is not above it: the order is dense. -/
theorem le_of_lowerEnd_admits {a b : α} {o o' : Bool}
    (h : ∀ x, (if o' then b < x else b ≤ x) → (if o then a < x else a ≤ x)) : a ≤ b := by
  refine le_of_forall_gt_imp_ge_of_dense fun x hx => ?_
  have hadmitted := h x (by cases o' <;> simp [hx, hx.le])
  cases o
  · simpa using hadmitted
  · exact (show a < x by simpa using hadmitted).le

/-- The elements a lower end admits decide its number and its openness. -/
theorem lowerEnds_admit_same_iff {a b : α} {o o' : Bool} :
    (∀ x, (if o then a < x else a ≤ x) ↔ (if o' then b < x else b ≤ x)) ↔ a = b ∧ o = o' := by
  refine ⟨fun h => ?_, ?_⟩
  · obtain rfl : a = b :=
      le_antisymm (le_of_lowerEnd_admits fun x => (h x).2) (le_of_lowerEnd_admits fun x => (h x).1)
    have hown : (o = false) ↔ (o' = false) := by simpa using h a
    exact ⟨rfl, Bool.eq_iff_iff.2 (by simpa using not_congr hown)⟩
  · rintro ⟨rfl, rfl⟩ x
    rfl

/-- The mirror image of `lowerEnds_admit_same_iff`. -/
theorem upperEnds_admit_same_iff {a b : α} {o o' : Bool} :
    (∀ x, (if o then x < a else x ≤ a) ↔ (if o' then x < b else x ≤ b)) ↔ a = b ∧ o = o' :=
  lowerEnds_admit_same_iff (α := αᵒᵈ)

end

/-! ### The obligation -/

/-- Settles O51. `cmpV` and `cmpE` are the comparisons of two linear orders, the extended numbers and the ranks; a tie
on one side and a common set of elements are both agreement in number and openness. -/
theorem endpointOrder : Obligations.EndpointOrder := by
  unfold Obligations.EndpointOrder
  refine ⟨fun p q => ?value, Gnum.toNum_eq, ?order, fun p q => ⟨?left, ?right⟩⟩
  case value =>
    rw [cmpV_eq_compare_toNum]
    exact ⟨compare_lt_iff_lt, compare_eq_iff_eq, compare_gt_iff_gt⟩
  case order =>
    intro p q sp sq pos
    have hpos : pos = Side.pos := by
      funext sd o
      cases sd <;> cases o <;> rfl
    rw [hpos]
    exact ⟨fun h => cmpE_eq_cmpV h sp sq, fun h => cmpE_eq_compare_pos h sp sq, cmpE_self p sp, cmpE_swap p sp q sq,
      fun _ _ => cmpE_trans⟩
  case left => rw [cmpE_eq_eq_iff, lowerEnds_admit_same_iff]
  case right => rw [cmpE_eq_eq_iff, upperEnds_admit_same_iff]

end Sys2Proof.Machine
end

section
/-! PROOF. CLT, CGT, CNEQ, CSEQ and CIDN (43_compare_select.md R186 to R190): each writes its predicate to T; O50. -/

namespace Sys2Proof.Machine

/-! ### The commands -/

section
variable {s : State} (hv : s.env.v = true) (ra rb : GReg)
include hv

theorem exec_clt : exec (.clt ra rb) s = .next (s.setT (tLess (s.readG ra) (s.readG rb))) :=
  State.needEnv_of_env hv _

theorem exec_cgt : exec (.cgt ra rb) s = .next (s.setT (tGreater (s.readG ra) (s.readG rb))) :=
  State.needEnv_of_env hv _

theorem exec_cneq : exec (.cneq ra rb) s = .next (s.setT (tNowhereEqual (s.readG ra) (s.readG rb))) :=
  State.needEnv_of_env hv _

theorem exec_cseq : exec (.cseq ra rb) s = .next (s.setT (tSomewhereEqual (s.readG ra) (s.readG rb))) :=
  State.needEnv_of_env hv _

theorem exec_cidn : exec (.cidn ra rb) s = .next (s.setT (identical (s.readG ra) (s.readG rb))) :=
  State.needEnv_of_env hv _

end

/-! ### The predicates by their formulas -/

theorem below_eq_decide (a b : Gbnd) : below a b = decide (cmpE a.r .right b.l .left = .lt) := beq_eq_decide ..

theorem tGreater_eq (a b : Gbnd) :
    tGreater a b = ((!a.nan && !b.nan) && decide (cmpE a.l .left b.r .right = .gt)) := by
  rw [tGreater, bothNumbers, beq_eq_decide]

theorem tLess_eq (a b : Gbnd) : tLess a b = ((!a.nan && !b.nan) && decide (cmpE a.r .right b.l .left = .lt)) := by
  rw [tLess, bothNumbers, below_eq_decide]

theorem tNowhereEqual_eq (a b : Gbnd) :
    tNowhereEqual a b = ((!a.nan && !b.nan) &&
      (decide (cmpE a.r .right b.l .left = .lt) || decide (cmpE a.l .left b.r .right = .gt))) := by
  rw [tNowhereEqual, bothNumbers, below_eq_decide, beq_eq_decide]

theorem tSomewhereEqual_eq (a b : Gbnd) :
    tSomewhereEqual a b = ((!a.nan && !b.nan) &&
      !(decide (cmpE a.r .right b.l .left = .lt) || decide (cmpE a.l .left b.r .right = .gt))) := by
  rw [tSomewhereEqual, bothNumbers, below_eq_decide, beq_eq_decide]

theorem identical_eq (a b : Gbnd) :
    identical a b = ((!a.nan && !b.nan) &&
      decide (cmpV a.l b.l = .eq ∧ a.l.opn = b.l.opn ∧ cmpV a.r b.r = .eq ∧ a.r.opn = b.r.opn)) := by
  simp only [identical, beq_eq_decide, Bool.decide_and, Bool.and_assoc]

/-! ### The obligation -/

/-- Settles O50. Each command writes its predicate to T by one equation, and each predicate is its rule's formula; no
equation asks that an operand be well-formed. -/
theorem predicateCommands : Obligations.PredicateCommands := by
  unfold Obligations.PredicateCommands
  intro s ra rb hv a b ok lt gt setsT
  refine ⟨⟨Laws.EncodeOpcode.clt ra rb, ?less⟩, ⟨Laws.EncodeOpcode.cgt ra rb, ?greater⟩,
    ⟨Laws.EncodeOpcode.cneq ra rb, ?nowhereEqual⟩, ⟨Laws.EncodeOpcode.cseq ra rb, ?somewhereEqual⟩,
    ⟨Laws.EncodeOpcode.cidn ra rb, ?same⟩⟩
  case less => exact (exec_clt hv ra rb).trans (by rw [tLess_eq]; rfl)
  case greater => exact (exec_cgt hv ra rb).trans (by rw [tGreater_eq]; rfl)
  case nowhereEqual => exact (exec_cneq hv ra rb).trans (by rw [tNowhereEqual_eq]; rfl)
  case somewhereEqual => exact (exec_cseq hv ra rb).trans (by rw [tSomewhereEqual_eq]; rfl)
  case same => exact (exec_cidn hv ra rb).trans (by rw [identical_eq]; rfl)

end Sys2Proof.Machine
end

section
/-! PROOF. UNIFY (44_unify.md R224): the command on a canonical bound, and O57. -/

namespace Sys2Proof.Machine

/-- UNIFY on a canonical bound: the controller's bound is canonical, so B[rd] holds it as it is. -/
theorem exec_unify {s : State} (hv : s.env.v = true) {ra : BReg} (hb : CanonicalBound s.env (s.readB ra)) (rd : BReg) :
    exec (.unify rd ra) s = .next { s with
      b := s.b.set rd (unify s.env (s.readB ra)).bound, uctl := (unify s.env (s.readB ra)).uctl,
      status := { s.status with
        uni := !(unify s.env (s.readB ra)).bound.p, nanf := boundIsNan s.env (unify s.env (s.readB ra)).bound } } := by
  have hwrite := State.writeB_of_canonical (unify_canonical hb) rd
  simp only [exec, execUnify, State.needEnv_of_env hv, hwrite, State.writeUctl, State.setUni, State.setNanf]

/-- Settles O57. The register read is canonical, so the controller's bound is canonical and `exec_unify`
applies; `Unified.uctl` and `boundIsNan` are the report and the NaN test the statement writes out. -/
theorem unifyCommand : Obligations.UnifyCommand := by
  unfold Obligations.UnifyCommand
  intro s rd ra hv hcanon r
  obtain ⟨-, hbounds⟩ := hcanon
  exact ⟨Laws.EncodeOpcode.unify rd ra, exec_unify hv (hbounds ra) rd⟩

end Sys2Proof.Machine
end

section
/-! PROOF. The error latch (60_exceptions.md R241, R242): each command keeps ERR or raises one error and writes nothing
else, CLRERR apart, and O20. -/

namespace Sys2Proof.Machine

/-- What a command other than CLRERR can do to ERR: keep it, whatever else it writes, or raise an error, which is all it
then does (60_exceptions.md R241). E_ILLEGAL is raised by the decode order and the fatal code by SETENV's fatal arm
(R242), so neither is latched here. -/
inductive KeepsErrOrRaises (s : State) : State → Prop
  | kept {t : State} (h : t.status.err = s.status.err) : KeepsErrOrRaises s t
  | raised {x : ErrCode} (hillegal : x ≠ .illegal) (hconfig : x ≠ .config) : KeepsErrOrRaises s (s.raise x)

/-- The codes of the errors that a command raises (60_exceptions.md R242). -/
theorem ErrCode.code_bounds {x : ErrCode} (hillegal : x ≠ .illegal) (hconfig : x ≠ .config) :
    2 ≤ x.code.toNat ∧ x.code.toNat ≤ 5 := by
  cases x with
  | illegal => exact absurd rfl hillegal
  | config => exact absurd rfl hconfig
  | noEnv | field | operand | range => decide

/-! ### The shared operations -/

section
variable {s : State}

theorem KeepsErrOrRaises.raise_field : KeepsErrOrRaises s (s.raise .field) := .raised nofun nofun

theorem KeepsErrOrRaises.raise_operand : KeepsErrOrRaises s (s.raise .operand) := .raised nofun nofun

theorem KeepsErrOrRaises.raise_range : KeepsErrOrRaises s (s.raise .range) := .raised nofun nofun

theorem KeepsErrOrRaises.of_needEnv {k t : State} (h : s.needEnv k = .next t) (hk : KeepsErrOrRaises s k) :
    KeepsErrOrRaises s t := by
  obtain ⟨-, rfl⟩ | ⟨-, rfl⟩ := State.needEnv_cases h
  · exact hk
  · exact .raised nofun nofun

theorem KeepsErrOrRaises.of_ite {p : Prop} [Decidable p] {k l : State} (hk : KeepsErrOrRaises s k)
    (hl : KeepsErrOrRaises s l) : KeepsErrOrRaises s (if p then k else l) := by
  split
  · exact hk
  · exact hl

theorem KeepsErrOrRaises.of_onLoad {α : Type} {x : Loaded α} {k : α → State}
    (herror : ∀ e, x = .error e → KeepsErrOrRaises s (s.raise e)) (hok : ∀ v, KeepsErrOrRaises s (k v)) :
    KeepsErrOrRaises s (s.onLoad x k) := by
  obtain ⟨e, hx, h⟩ | ⟨v, -, h⟩ := s.onLoad_cases x k
  · exact h ▸ herror e hx
  · exact h ▸ hok v

theorem storeBytes_keepsErrOrRaises (s : State) (a : Nat) (bs : List Byte) :
    KeepsErrOrRaises s (s.storeBytes a bs) := by
  obtain ⟨-, h⟩ | ⟨-, h⟩ := s.storeBytes_cases a bs
  · exact h ▸ .raise_range
  · exact h ▸ .kept rfl

theorem KeepsErrOrRaises.of_unpackU_error {a : Nat} {e : ErrCode} (h : s.unpackU a = .error e) :
    KeepsErrOrRaises s (s.raise e) :=
  State.unpackU_error h ▸ .raise_range

theorem KeepsErrOrRaises.of_unpackB_error {a : Nat} {e : ErrCode} (h : s.unpackB a = .error e) :
    KeepsErrOrRaises s (s.raise e) := by
  obtain rfl | rfl := State.unpackB_error h
  · exact .raise_range
  · exact .raise_field

/-! ### The commands -/

theorem exec_setenv_err {ess fss : BitVec 4} {t : State} (h : exec (.setenv ess fss) s = .next t) :
    t.status.err = s.status.err := by
  by_cases hcaps : s.cfg.essCap < ess.toNat ∨ s.cfg.fssCap < fss.toNat
  · rw [exec_setenv_beyond_cap hcaps] at h
    cases h
    rfl
  · rw [exec_setenv_within_caps (by omega) (by omega)] at h
    cases h
    rfl

theorem exec_ldc_keepsErrOrRaises {rd : UReg} {id : Imm} {t : State} (h : exec (.ldc rd id) s = .next t) :
    KeepsErrOrRaises s t := by
  refine .of_needEnv h ?_
  cases pattern s.env id.toNat with
  | none => exact .raise_field
  | some v => exact .kept rfl

/-- The commands not named write no part of STATUS but result flags once the environment check is passed. -/
theorem exec_keepsErrOrRaises {i : Instr} {t : State} (hclrerr : i ≠ .clrerr) (h : exec i s = .next t) :
    KeepsErrOrRaises s t := by
  cases i with
  | nop => cases h; exact .kept rfl
  | setenv ess fss => exact .kept (exec_setenv_err h)
  | clrenv => cases h; exact .kept rfl
  | clrerr => exact absurd rfl hclrerr
  | ldc rd id => exact exec_ldc_keepsErrOrRaises h
  | ldu rd addr => exact .of_needEnv h (.of_onLoad (fun _ => .of_unpackU_error) fun _ => .kept rfl)
  | ldb rd addr => exact .of_needEnv h (.of_onLoad (fun _ => .of_unpackB_error) fun _ => .kept rfl)
  | stu ra addr => exact .of_needEnv h (storeBytes_keepsErrOrRaises s _ _)
  | stb ra addr => exact .of_needEnv h (storeBytes_keepsErrOrRaises s _ _)
  | etag rd => exact .of_needEnv h (.of_ite (.kept rfl) .raise_field)
  | promf rd ra | prome rd ra | promp rd ra => exact .of_needEnv h (.of_ite .raise_operand (.kept rfl))
  | encl rd ra | encr rd ra => exact .of_needEnv h (.of_ite (.kept rfl) (.kept rfl))
  | pack rd ra => exact .of_needEnv h (.kept (by simp [State.writeB]))
  | _ => exact .of_needEnv h (.kept rfl)

end

/-- Settles O20. CLRERR leaves ERR = 0, and a command that keeps ERR = 0 raises nothing, so the state with ERR = 1 is the
raised one. -/
theorem anErrorWritesNothingElse : Obligations.AnErrorWritesNothingElse := by
  unfold Obligations.AnErrorWritesNothingElse
  intro i s t h herr herr'
  by_cases hclrerr : i = .clrerr
  · subst hclrerr
    cases h
    simp at herr'
  · cases exec_keepsErrOrRaises hclrerr h with
    | kept hkept => simp [hkept, herr] at herr'
    | raised hillegal hconfig =>
      obtain ⟨hlo, hhi⟩ := ErrCode.code_bounds hillegal hconfig
      exact ⟨_, hlo, hhi, rfl⟩

end Sys2Proof.Machine
end

section
/-! PROOF. Dropped words and the fatal state (60_exceptions.md R243, R244): the step on a dropped word, what every host
action but the reset input keeps, O7 and O8. -/

namespace Sys2Proof.Machine

/-- A step of the unit on a word it drops, written out (60_exceptions.md R243, R244). -/
theorem step_of_drops_status {s : State} (hturn : s.turn = .unit) (hd : s.drops = true) :
    step s = .next { s.countTurn with status := { s.status with busy := false } } := by
  rw [step_of_drops hturn hd, State.finish, State.countTurn_status]

/-! ### What keeps FATAL -/

/-- No register the host can write holds FATAL (10_state.md R33). -/
theorem State.writeReg_fatal (s : State) (r : HostReg) (v : Nat) :
    (s.writeReg r v).status.fatal = s.status.fatal := by
  cases r with
  | cmd => rw [State.writeReg, State.writeCmd]; split <;> rfl
  | _ => rfl

theorem State.hostAct_fatal {a : HostAction} (ha : a ≠ .reset) (s : State) :
    (s.hostAct a).status.fatal = s.status.fatal := by
  cases a with
  | read addr => rfl
  | write addr v => exact s.writeReg_fatal _ v
  | wait => rfl
  | reset => exact absurd rfl ha

theorem State.hostStep_fatal {s : State} (h : ∀ rest, s.hostIn ≠ .reset :: rest) :
    s.hostStep.status.fatal = s.status.fatal := by
  cases hin : s.hostIn with
  | nil => rw [State.hostStep, hin]
  | cons a rest =>
    have ha : a ≠ .reset := by
      rintro rfl
      exact h rest hin
    rw [State.hostStep, hin]
    exact State.hostAct_fatal ha _

/-- The fatal state outlasts every step but the host's reset (60_exceptions.md R244). -/
theorem step_keeps_fatal {s t : State} (hfatal : s.status.fatal = true) (hreset : ∀ rest, s.hostIn ≠ .reset :: rest)
    (h : step s = .next t) : t.status.fatal = true := by
  cases hturn : s.turn with
  | unit =>
    rw [step_of_drops hturn (State.drops_iff.mpr (.inl hfatal))] at h
    cases h
    simpa using hfatal
  | host =>
    rw [step_of_turn_host hturn] at h
    cases h
    rwa [State.hostStep_fatal (by simpa using hreset), State.countTurn_status]
  | idle =>
    rw [step_of_turn_idle hturn] at h
    cases h
    exact hfatal

/-! ### The obligations -/

/-- Settles O7. -/
theorem errorDropsEveryWordButClrerr : Obligations.ErrorDropsEveryWordButClrerr := by
  unfold Obligations.ErrorDropsEveryWordButClrerr
  intro s hturn herr hop
  exact step_of_drops_status hturn (State.drops_iff.mpr (.inr ⟨herr, hop⟩))

/-- Settles O8. The unit drops every word while FATAL = 1 and the host writes no control bit but OVR and BUSY, so only
the reset input ends the fatal state. -/
theorem fatalIsLeftOnlyByReset : Obligations.FatalIsLeftOnlyByReset := by
  unfold Obligations.FatalIsLeftOnlyByReset
  refine ⟨fun _ _ _ hcaps => exec_setenv_beyond_cap hcaps,
    fun _ hturn hfatal => step_of_drops_status hturn (State.drops_iff.mpr (.inl hfatal)),
    fun _ _ hturn => step_of_turn_host hturn, fun s t hfatal h => ?leaves⟩
  case leaves =>
    by_cases hreset : ∃ rest, s.hostIn = .reset :: rest
    · exact .inr hreset
    · exact .inl (step_keeps_fatal hfatal (not_exists.mp hreset) h)

end Sys2Proof.Machine
end

section
/-! PROOF. The encoder against the decoder (30_encoding.md R70 to R78): each is the other's inverse; O1, O2 and O4. -/

namespace Sys2Proof

/-! ### Decoding a word that was encoded -/

/-- A word of fields that fit decodes as its fields. -/
theorem decode_joinFields {op rd ra rb imm : Nat} (ho : op < 256) (hd : rd < 16) (ha : ra < 16) (hb : rb < 16)
    (hi : imm < 4096) : decode (joinFields op rd ra rb imm) = decodeFields ⟨op, rd, ra, rb, imm⟩ := by
  rw [decode, fieldsOf_joinFields ho hd ha hb hi]

theorem immOf_toNat (op rd ra rb : Nat) (imm : Imm) : immOf ⟨op, rd, ra, rb, imm.toNat⟩ = imm :=
  BitVec.eq_of_toNat_eq (Nat.mod_eq_of_lt imm.isLt)

/-- SETENV's immediate splits into its two sizes (30_encoding.md R71). -/
theorem setenvOf_sizes (op rd ra rb : Nat) (ess fss : BitVec 4) :
    setenvOf ⟨op, rd, ra, rb, ess.toNat * 2 ^ 4 + fss.toNat⟩ = .ok (.setenv ess fss) := by
  have hess := ess.isLt
  have hfss := fss.isLt
  have hhigh : slice (ess.toNat * 2 ^ 4 + fss.toNat) 8 4 = 0 := by rw [slice]; omega
  have hmid : slice (ess.toNat * 2 ^ 4 + fss.toNat) 4 4 = ess.toNat := by rw [slice]; omega
  have hlow : slice (ess.toNat * 2 ^ 4 + fss.toNat) 0 4 = fss.toNat := by rw [slice]; omega
  simp only [setenvOf, hhigh, hmid, hlow, if_true, BitVec.ofNat_toNat, BitVec.setWidth_eq]

/-- MKB's pair flag is bit 0 of its immediate; a singleton has `rb = 0` (30_encoding.md R71, 40_env_move.md R98). -/
theorem mkbOf_pairFlag (op d a : Nat) (rd : BReg) (ra rb : UReg) {pair : Bool} (h : pair = false → rb = 0) :
    mkbOf ⟨op, d, a, rb, pair.toNat⟩ rd ra = .ok (.mkb rd ra rb pair) := by
  cases pair with
  | true => simp [mkbOf, uReg_val, slice]
  | false => simp [mkbOf, uReg, slice, unused, h rfl]

theorem decode_encode {i : Instr} (h : i.wf = true) : decode (encode i) = .ok i := by
  cases i with
  | setenv ess fss =>
    rw [encode, decode_joinFields (by decide) (by decide) (by decide) (by decide) (by omega)]
    simp only [decodeFields, unused, if_true, setenvOf_sizes]
  | mkb rd ra rb pair =>
    have hsingle : pair = false → rb = 0 := by rintro rfl; simpa [Instr.wf] using h
    have hflag := Bool.toNat_le pair
    rw [encode, decode_joinFields (by decide) (by omega) (by omega) (by omega) (by omega)]
    simp only [decodeFields, reg4_val, uReg_val, mkbOf_pairFlag 0x0C rd ra rd ra rb hsingle]
  | _ =>
    rw [encode, decode_joinFields (by decide) (by omega) (by omega) (by omega) (by omega)]
    simp [decodeFields, unused, noImm, uReg_val, reg4_val, immOf_toNat]

/-! ### Encoding a command that was decoded -/

/-- `i` is a well-formed command whose word has the fields `f`. -/
def Instr.IsOf (i : Instr) (f : Fields) : Prop :=
  i.wf = true ∧ encode i = joinFields f.op f.rd f.ra f.rb f.imm

theorem immOf_val {f : Fields} (h : f.imm < 4096) : (immOf f).toNat = f.imm := Nat.mod_eq_of_lt h

theorem setenvOf_ok {f : Fields} (h : f.imm < 4096) {i : Instr} (hi : setenvOf f = .ok i) :
    ∃ ess fss, i = .setenv ess fss ∧ ess.toNat * 2 ^ 4 + fss.toNat = f.imm := by
  unfold setenvOf at hi
  split at hi
  case isFalse => cases hi
  case isTrue hhigh =>
    cases hi
    refine ⟨_, _, rfl, ?_⟩
    rw [slice] at hhigh
    simp only [slice, BitVec.toNat_ofNat]
    omega

theorem mkbOf_ok {f : Fields} (h : f.imm < 4096) {rd : BReg} {ra : UReg} {i : Instr} (hi : mkbOf f rd ra = .ok i) :
    ∃ (rb : UReg) (pair : Bool), i = .mkb rd ra rb pair ∧ i.wf = true ∧ rb.val = f.rb ∧ pair.toNat = f.imm := by
  obtain ⟨rb, hrb, hi⟩ := uReg_ok hi
  split at hi
  case isTrue => cases hi
  case isFalse hhigh =>
    have himm : f.imm = slice f.imm 0 1 := by
      simp only [slice, not_not] at hhigh ⊢
      omega
    split at hi
    case isTrue hpair =>
      cases hi
      exact ⟨rb, true, rfl, rfl, hrb, by rw [himm, hpair]; rfl⟩
    case isFalse hpair =>
      obtain ⟨hzero, hi⟩ := unused_ok hi
      have hflag : slice f.imm 0 1 = 0 := by
        have := slice_lt f.imm 0 1
        omega
      cases hi
      exact ⟨rb, false, rfl, by simp [Instr.wf, Fin.ext_iff, hrb, hzero], hrb, by rw [himm, hflag]; rfl⟩

/-- Every arm of the map inverted: each field check says what its field holds, and the fields join to the command's
word. -/
theorem isOf_of_decodeFields {f : Fields} (himm : f.imm < 4096) {i : Instr} (h : decodeFields f = .ok i) :
    i.IsOf f := by
  unfold decodeFields at h
  split at h
  case h_39 => cases h
  all_goals
    rename_i hop
    grind [unused_ok, uReg_ok, reg4_ok, noImm_ok, setenvOf_ok, mkbOf_ok, Instr.IsOf, encode, Instr.wf, immOf_val]

theorem encode_of_decode {w : Word} {i : Instr} (h : decode w = .ok i) : i.wf = true ∧ encode i = w := by
  obtain ⟨-, -, -, -, himm⟩ := fieldsOf_lt w
  obtain ⟨hwf, hword⟩ := isOf_of_decodeFields himm h
  exact ⟨hwf, hword.trans (joinFields_fieldsOf w)⟩

/-! ### The obligations -/

/-- A row's 32 bits are the word itself (20_memory.md R62). -/
theorem tableWord_toNat (w : Word) : tableWord 32 w.toNat = w :=
  BitVec.eq_of_toNat_eq (by rw [tableWord, BitVec.toNat_ofNat, Nat.mod_mod, Nat.mod_eq_of_lt w.isLt])

/-- Settles O1. The fields of a command's word fit their bits, so they are split off unchanged, and the arm of the
map for the opcode gives the command back. -/
theorem decodeOfEncodeIsTheCommand : Obligations.DecodeOfEncodeIsTheCommand := by
  unfold Obligations.DecodeOfEncodeIsTheCommand
  intro i hwf
  have hdecode := decode_encode hwf
  exact ⟨hdecode, by rw [decodeTableWord, tableWord_toNat, hdecode]⟩

/-- Settles O2. -/
theorem encodeOfDecodeIsTheWord : Obligations.EncodeOfDecodeIsTheWord :=
  fun _ _ => encode_of_decode

/-- Settles O4. -/
theorem writtenWordsDecode : Obligations.WrittenWordsDecode := by
  unfold Obligations.WrittenWordsDecode
  decide

end Sys2Proof
end

section
/-! PROOF. The host's registers (10_state.md R21, R33 to R38): what stands at each address of the map, and what a read
and a write of it do; O11 to O14. -/

namespace Sys2Proof.Machine

/-! ### The register map -/

theorem hostReg_u (c : Config) (i : UReg) : hostReg c (0x100 + i) = .u i := by
  have hi := i.isLt
  simp (disch := omega) only [hostReg, if_neg, if_pos, Nat.add_sub_cancel_left, Fin.ofNat_val_eq_self]

theorem hostReg_b (c : Config) (j : BReg) {n : Nat} (hn : n < 3) : hostReg c (0x110 + 3 * j + n) = hostB j n := by
  have hj := j.isLt
  have hreg : (0x110 + 3 * j.val + n - 0x110) / 3 = j.val := by omega
  have hfield : (0x110 + 3 * j.val + n - 0x110) % 3 = n := by omega
  simp (disch := omega) only [hostReg, if_neg, if_pos, hreg, hfield, Fin.ofNat_val_eq_self]

theorem hostReg_g (c : Config) (k : GReg) {n : Nat} (hn : n < 8) : hostReg c (0x120 + 8 * k + n) = hostG k n := by
  have hk := k.isLt
  have hreg : (0x120 + 8 * k.val + n - 0x120) / 8 = k.val := by omega
  have hfield : (0x120 + 8 * k.val + n - 0x120) % 8 = n := by omega
  simp (disch := omega) only [hostReg, if_neg, if_pos, hreg, hfield, Fin.ofNat_val_eq_self]

theorem hostReg_buf {c : Config} {a : Nat} (h : a < c.bufsz) : hostReg c (0x1000 + a) = .buf a := by
  simp (disch := omega) only [hostReg, if_neg, if_pos, Nat.add_sub_cancel_left]

/-- The addresses of no register (10_state.md R33). -/
theorem hostReg_unmapped {c : Config} {a : Nat} (h006 : 0x006 < a) (h010 : a ≠ 0x010) (hu : a < 0x100 ∨ 0x108 ≤ a)
    (hb : a < 0x110 ∨ 0x11C ≤ a) (hg : a < 0x120 ∨ 0x140 ≤ a) (hbuf : a < 0x1000 ∨ 0x1000 + c.bufsz ≤ a) :
    hostReg c a = .unmapped := by
  simp (disch := omega) only [hostReg, if_neg]

theorem hostB_ne_buf (j : BReg) (n b : Nat) : hostB j n ≠ .buf b := by
  unfold hostB
  split <;> nofun

theorem hostG_ne_buf (k : GReg) (n b : Nat) : hostG k n ≠ .buf b := by
  unfold hostG
  split <;> nofun

/-- The map's buffer addresses lie in the buffer (10_state.md R33). -/
theorem lt_bufsz_of_hostReg {c : Config} {a b : Nat} (h : hostReg c a = .buf b) : b < c.bufsz := by
  unfold hostReg at h
  iterate 9
    obtain ⟨-, h⟩ | ⟨-, h⟩ := ite_eq_iff.1 h
    · simp only [reduceCtorEq] at h
  obtain ⟨-, h⟩ | ⟨-, h⟩ := ite_eq_iff.1 h
  · exact absurd h (hostB_ne_buf _ _ _)
  obtain ⟨-, h⟩ | ⟨-, h⟩ := ite_eq_iff.1 h
  · exact absurd h (hostG_ne_buf _ _ _)
  obtain ⟨hin, h⟩ | ⟨-, h⟩ := ite_eq_iff.1 h
  · have hb := HostReg.buf.inj h
    omega
  · simp only [reduceCtorEq] at h

/-! ### Reads -/

theorem State.hostRead_of_hostReg {s : State} {a : Nat} {r : HostReg} (h : hostReg s.cfg a = r) :
    s.hostRead a = { s with hostOut := s.readReg r :: s.hostOut } := by
  rw [State.hostRead, h]

/-- The flags register of an endpoint, with the bits' weights first. -/
theorem Gnum.flags_eq (p : Gnum) : p.flags = p.opn.toNat + 2 * p.inf.toNat + 4 * p.val.sg.toNat := by
  rw [Gnum.flags]
  omega

/-- Settles O11. The map is read address by address; each address gives its register's whole value. -/
theorem hostReadsTheRegisterMap : Obligations.HostReadsTheRegisterMap := by
  unfold Obligations.HostReadsTheRegisterMap
  intro s gives
  have reads {a v : Nat} (r : HostReg) (hr : hostReg s.cfg a = r) (hv : s.readReg r = v) : gives a v := by
    rw [← hv]
    exact State.hostRead_of_hostReg hr
  refine ⟨reads .cmd rfl rfl, reads .status rfl rfl, reads .errcode rfl rfl, reads .env rfl rfl, reads .tag rfl rfl,
    reads .fexp rfl rfl, reads .uctl rfl rfl, reads .ffrac rfl rfl, fun i => reads _ (hostReg_u _ i) rfl,
    fun j => ⟨reads _ (hostReg_b _ j (n := 0) (by decide)) rfl, reads _ (hostReg_b _ j (n := 1) (by decide)) rfl,
      reads _ (hostReg_b _ j (n := 2) (by decide)) rfl⟩, fun k => ?_, fun a ha => reads _ (hostReg_buf ha) rfl,
    fun a h006 h010 hu hb hg hbuf => reads _ (hostReg_unmapped h006 h010 hu hb hg hbuf) rfl⟩
  exact ⟨reads _ (hostReg_g _ k (n := 0) (by decide)) rfl,
    reads _ (hostReg_g _ k (n := 1) (by decide)) (Gnum.flags_eq _), reads _ (hostReg_g _ k (n := 2) (by decide)) rfl,
    reads _ (hostReg_g _ k (n := 3) (by decide)) rfl, reads _ (hostReg_g _ k (n := 4) (by decide)) (Gnum.flags_eq _),
    reads _ (hostReg_g _ k (n := 5) (by decide)) rfl, reads _ (hostReg_g _ k (n := 6) (by decide)) rfl,
    reads _ (hostReg_g _ k (n := 7) (by decide)) rfl⟩

/-! ### Writes -/

theorem State.hostWrite_of_hostReg {s : State} {a : Nat} {r : HostReg} (h : hostReg s.cfg a = r) (v : Nat) :
    s.hostWrite a v = s.writeReg r v := by
  rw [State.hostWrite, h]

theorem slice_zero (v n : Nat) : slice v 0 n = v % 2 ^ n := by
  rw [slice, Nat.pow_zero, Nat.div_one]

/-- A host write of a unum, in the terms of 10_state.md R24 and R33. -/
theorem State.hostUnum_eq (s : State) (v : Nat) :
    s.hostUnum v = if s.env.v then v % 2 ^ s.cfg.width % 2 ^ numbits s.env (v % 2 ^ s.cfg.width)
      else v % 2 ^ s.cfg.width := by
  rw [State.hostUnum, canon, slice_zero, slice_zero]

/-- Settles O12. -/
theorem hostWritesUnums : Obligations.HostWritesUnums := by
  unfold Obligations.HostWritesUnums
  intro s v w x
  have hx : s.hostUnum v = x := s.hostUnum_eq v
  refine ⟨fun i => ?_, fun j => ⟨?_, ?_, ?_⟩⟩
  · rw [State.hostWrite_of_hostReg (hostReg_u _ i), State.writeReg, hx]
  · rw [State.hostWrite_of_hostReg (a := 0x110 + 3 * j) (hostReg_b _ j (n := 0) (by decide)), hostB, State.writeReg,
      slice_one_eq_testBit]
    rfl
  · rw [State.hostWrite_of_hostReg (r := .bL j) (hostReg_b _ j (n := 1) (by decide)), State.writeReg, hx]
    rfl
  · rw [State.hostWrite_of_hostReg (r := .bR j) (hostReg_b _ j (n := 2) (by decide)), State.writeReg, hx]
    rfl

theorem Gnum.setFlags_eq (p : Gnum) (v : Nat) :
    p.setFlags v = { opn := v.testBit 0, inf := v.testBit 1, val := { p.val with sg := v.testBit 2 } } := by
  rw [Gnum.setFlags, slice_one_eq_testBit, slice_one_eq_testBit, slice_one_eq_testBit]

/-- A write of TAG keeps the low bits of the fields that fit, and NB (10_state.md R35). -/
theorem Tag.hostSet_eq (x : Tag) (v : Nat) :
    x.hostSet v = { x with
      fs := BitVec.ofNat 12 v, es := BitVec.ofNat 5 (v / 2 ^ 12), ub := v.testBit 17, sg := v.testBit 18 } := by
  have hfs : BitVec.ofNat 12 (slice v 0 12) = BitVec.ofNat 12 v := BitVec.eq_of_toNat_eq (by simp [slice])
  have hes : BitVec.ofNat 5 (slice v 12 5) = BitVec.ofNat 5 (v / 2 ^ 12) := BitVec.eq_of_toNat_eq (by simp [slice])
  rw [Tag.hostSet, slice_one_eq_testBit, slice_one_eq_testBit, hfs, hes]

/-- The exponent a host write stores: the one in the register's range whose low `GEW` bits are those written
(10_state.md R27, R33). -/
theorem wrapExp_bits (c : Config) (v : Nat) :
    (wrapExp c v % 2 ^ c.gew).toNat = v % 2 ^ c.gew := by
  have hwrap : wrapExp c v % 2 ^ c.gew = (v : Int) % 2 ^ c.gew := by
    rw [wrapExp, Int.emod_sub_emod]
    ring_nf
  rw [hwrap]
  exact_mod_cast Int.toNat_natCast (v % 2 ^ c.gew)

/-- Settles O13. -/
theorem hostWritesOtherRegisters : Obligations.HostWritesOtherRegisters := by
  unfold Obligations.HostWritesOtherRegisters
  intro s v
  refine ⟨?tag, ?fexp, ?ffrac, fun k => ?ends, fun a ha hwf => ?buf, ?readOnly, fun k => ?reserved,
    fun a h006 h010 hu hb hg hbuf => ?unmapped⟩
  case tag =>
    rw [State.hostWrite_of_hostReg (r := .tag) rfl, State.writeReg, Tag.hostSet_eq]
  case fexp => rw [State.hostWrite_of_hostReg (r := .fexp) rfl, State.writeReg, slice_zero]
  case ffrac => rw [State.hostWrite_of_hostReg (r := .ffrac) rfl, State.writeReg, slice_zero]
  case ends =>
    intro g becomes
    have writes {a : Nat} {h : Gbnd} (r : HostReg) (hr : hostReg s.cfg a = r) (hv : s.writeReg r v = s.writeG k h) :
        becomes a h := (State.hostWrite_of_hostReg hr v).trans hv
    have hexp := (expFits_iff _ _).1 (expFits_wrapExp s.cfg v)
    refine ⟨writes (.gNan k) (hostReg_g _ k (n := 0) (by decide)) ?_,
      writes (.gFlags k .left) (hostReg_g _ k (n := 1) (by decide)) ?_,
      writes (.gMan k .left) (hostReg_g _ k (n := 3) (by decide)) ?_,
      writes (.gFlags k .right) (hostReg_g _ k (n := 4) (by decide)) ?_,
      writes (.gMan k .right) (hostReg_g _ k (n := 6) (by decide)) ?_, fun _ =>
      ⟨wrapExp s.cfg v, hexp.1, hexp.2, wrapExp_bits s.cfg v,
        writes (.gExp k .left) (hostReg_g _ k (n := 2) (by decide)) rfl,
        writes (.gExp k .right) (hostReg_g _ k (n := 5) (by decide)) rfl⟩⟩
    · rw [State.writeReg, slice_one_eq_testBit]; rfl
    · rw [State.writeReg, State.setGEnd, Gnum.setFlags_eq]; rfl
    · rw [State.writeReg, State.setGEnd, slice_zero]; rfl
    · rw [State.writeReg, State.setGEnd, Gnum.setFlags_eq]; rfl
    · rw [State.writeReg, State.setGEnd, slice_zero]; rfl
  case buf =>
    refine ⟨_, State.hostWrite_of_hostReg (hostReg_buf ha) v, Memory.wf_write hwf _ _, ?_, fun c hc => ?_⟩
    · rw [Memory.read_write hwf, if_pos rfl]
    · rw [Memory.read_write hwf, if_neg hc]
  case readOnly => rintro a (rfl | rfl | rfl | rfl) <;> rfl
  case reserved => exact State.hostWrite_of_hostReg (hostReg_g _ k (n := 7) (by decide)) v
  case unmapped => exact State.hostWrite_of_hostReg (hostReg_unmapped h006 h010 hu hb hg hbuf) v

/-! ### Register words -/

theorem status_word_bits (x : Status) :
    x.word.testBit 0 = x.busy ∧ x.word.testBit 1 = x.err ∧ x.word.testBit 2 = x.fatal ∧
    x.word.testBit 3 = x.ovr ∧ x.word.testBit 4 = x.t ∧ x.word.testBit 5 = x.clip ∧
    x.word.testBit 6 = x.inex ∧ x.word.testBit 7 = x.lim ∧ x.word.testBit 8 = x.uni ∧
    x.word.testBit 9 = x.nanf ∧ x.word < 2 ^ 10 := by
  obtain ⟨a, b, c, d, e, f, g, h, i, j⟩ := x
  revert a b c d e f g h i j
  decide

theorem env_word_fields (E : Env) :
    slice E.word 0 4 = E.fss.toNat ∧ slice E.word 4 4 = E.ess.toNat ∧ E.word.testBit 8 = E.v ∧ E.word < 2 ^ 9 := by
  have hess := E.ess.isLt
  have hfss := E.fss.isLt
  have hv := E.v.toNat_le
  have hbit := slice_one_eq_testBit E.word 8
  rw [← hbit, Env.word]
  simp only [slice]
  cases E.v <;> simp <;> omega

theorem tag_word_fields (x : Tag) :
    slice x.word 0 12 = x.fs.toNat ∧ slice x.word 12 5 = x.es.toNat ∧ x.word.testBit 17 = x.ub ∧
      x.word.testBit 18 = x.sg ∧ x.word.testBit 19 = false ∧ slice x.word 20 12 = x.nb.toNat ∧ x.word < 2 ^ 32 := by
  have hfs := x.fs.isLt
  have hes := x.es.isLt
  have hnb := x.nb.isLt
  rw [← slice_one_eq_testBit, ← slice_one_eq_testBit, ← slice_one_eq_testBit, Tag.word]
  simp only [slice]
  cases x.ub <;> cases x.sg <;> simp <;> omega

theorem uctl_word_fields (x : Uctl) :
    slice x.word 0 4 = x.exit.toNat ∧ slice x.word 4 5 = x.eiter.toNat ∧ slice x.word 9 12 = x.fiter.toNat ∧
      x.word.testBit 21 = x.neg ∧ x.word < 2 ^ 22 := by
  have hexit := x.exit.isLt
  have heiter := x.eiter.isLt
  have hfiter := x.fiter.isLt
  rw [← slice_one_eq_testBit, Uctl.word]
  simp only [slice]
  cases x.neg <;> simp <;> omega

/-- Settles O14. -/
theorem registerWordsHaveTheirFields : Obligations.RegisterWordsHaveTheirFields :=
  ⟨status_word_bits, env_word_fields, tag_word_fields, uctl_word_fields⟩

end Sys2Proof.Machine
end

section
/-! PROOF. The invariant of the machine (10_state.md R24, R31; 60_exceptions.md R242 to R244): what each update of the
state needs to keep it, that every command, every host action and every step does, O16 and O17. -/

namespace Sys2Proof.Machine

/-! ### Unums within the width of a register (00_scope.md R5, R6) -/

/-- The environment's widest unum fits a register of a build whose caps hold it. -/
theorem State.maxubits_le_width {s : State} (h : s.envWithinCaps) : s.env.maxubits ≤ s.cfg.width := by
  obtain ⟨hess, hfss⟩ := h
  have hes : s.env.esmax ≤ 2 ^ s.cfg.essCap := Nat.pow_le_pow_right (by decide) hess
  have hfs : s.env.fsmax ≤ 2 ^ s.cfg.fssCap := Nat.pow_le_pow_right (by decide) hfss
  rw [Env.maxubits, Config.width]
  omega

theorem State.lt_width_of_canonical {s : State} (h : s.envWithinCaps) {u : Unum} (hu : Canonical s.env u) :
    u < 2 ^ s.cfg.width :=
  hu.trans_le (Nat.pow_le_pow_right (by decide) ((numbits_le s.env u).trans (s.maxubits_le_width h)))

theorem canon_le (E : Env) (u : Unum) : canon E u ≤ u := slice_zero_le u _

/-- What a host write stores fits the register and is canonical once an environment stands (10_state.md R24, R33). -/
theorem State.hostUnum_spec (s : State) (v : Nat) :
    s.hostUnum v < 2 ^ s.cfg.width ∧ (s.env.v = true → Canonical s.env (s.hostUnum v)) := by
  have hcut := slice_lt v 0 s.cfg.width
  cases hv : s.env.v
  · simp [State.hostUnum, hv, hcut]
  · simp only [State.hostUnum, hv, if_true]
    exact ⟨(canon_le _ _).trans_lt hcut, fun _ => canonical_canon _ _⟩

theorem canonical_zero (E : Env) : Canonical E 0 := Nat.two_pow_pos _

/-- The codes of the errors the latch can hold (60_exceptions.md R242). -/
theorem ErrCode.code_of_error {x : ErrCode} (hx : x ≠ .config) : 1 ≤ x.code.toNat ∧ x.code.toNat ≤ 5 := by
  cases x with
  | config => exact absurd rfl hx
  | illegal | noEnv | field | operand | range => decide

/-! ### What each update needs to keep the invariant -/

section
variable {s : State} (h : s.Inv)
include h

/-- The invariant sees no result flag, no BUSY and no OVR. -/
theorem State.Inv.setStatus {x : Status} (herr : x.err = s.status.err) (hfatal : x.fatal = s.status.fatal) :
    { s with status := x }.Inv := by
  obtain ⟨hwf, hcaps, hinit, hcanon, hwidth, hg, hfexp, hffrac, hbuf, hsize, herrors⟩ := h
  exact ⟨hwf, hcaps, hinit, hcanon, hwidth, hg, hfexp, hffrac, hbuf, hsize, by
    simpa only [State.errorsLegal, herr, hfatal] using herrors⟩

theorem State.Inv.setErrors {x : Status} {c : BitVec 8}
    (herrors : State.errorsLegal { s with status := x, errcode := c }) :
    { s with status := x, errcode := c }.Inv := by
  obtain ⟨hwf, hcaps, hinit, hcanon, hwidth, hg, hfexp, hffrac, hbuf, hsize, -⟩ := h
  exact ⟨hwf, hcaps, hinit, hcanon, hwidth, hg, hfexp, hffrac, hbuf, hsize, herrors⟩

/-- An error is raised in no fatal state, and its code is 1 to 5 (60_exceptions.md R242). -/
theorem State.Inv.raise (hfatal : s.status.fatal = false) {x : ErrCode} (hx : x ≠ .config) : (s.raise x).Inv := by
  refine h.setErrors ⟨fun _ => hfatal, fun hf => ?_, fun _ => ?_, fun he => ?_⟩
  · exact absurd (hfatal.symm.trans hf) Bool.false_ne_true
  · exact ErrCode.code_of_error hx
  · exact absurd he Bool.true_eq_false.mp

theorem State.Inv.goFatal (herr : s.status.err = false) : s.goFatal.Inv :=
  h.setErrors ⟨fun he => absurd (herr.symm.trans he) Bool.false_ne_true, fun _ => rfl,
    fun he => absurd (herr.symm.trans he) Bool.false_ne_true, fun _ hf => absurd hf Bool.true_eq_false.mp⟩

theorem State.Inv.clearError (hfatal : s.status.fatal = false) : s.clearError.Inv :=
  h.setErrors ⟨fun he => absurd he Bool.false_ne_true, fun hf => absurd (hfatal.symm.trans hf) Bool.false_ne_true,
    fun he => absurd he Bool.false_ne_true, fun _ _ => rfl⟩

/-- A U register set to a value that fits it and is canonical where an environment stands. -/
theorem State.Inv.setU (i : UReg) {v : Unum} (hfit : v < 2 ^ s.cfg.width) (hv : s.env.v = true → Canonical s.env v) :
    { s with u := s.u.set i v }.Inv := by
  obtain ⟨hwf, hcaps, hinit, hcanon, ⟨hwu, hwb⟩, hg, hfexp, hffrac, hbuf, hsize, herrors⟩ := h
  have hread (P : Unum → Prop) (hold : ∀ j, P (s.readU j)) (hnew : P v) (j : UReg) :
      P ({ s with u := s.u.set i v }.readU j) := by
    simp only [State.readU, Fin.getElem_fin, Vector.getElem_set]
    split
    · exact hnew
    · exact hold j
  exact ⟨hwf, hcaps, hinit, fun henv => ⟨hread _ (hcanon henv).1 (hv henv), (hcanon henv).2⟩,
    ⟨hread (· < 2 ^ s.cfg.width) hwu hfit, hwb⟩, hg, hfexp, hffrac, hbuf, hsize, herrors⟩

/-- A B register set to unums that fit it and are canonical where an environment stands. -/
theorem State.Inv.setB (i : BReg) {v : Ubound} (hfit : v.l < 2 ^ s.cfg.width ∧ v.r < 2 ^ s.cfg.width)
    (hv : s.env.v = true → CanonicalBound s.env v) : { s with b := s.b.set i v }.Inv := by
  obtain ⟨hwf, hcaps, hinit, hcanon, ⟨hwu, hwb⟩, hg, hfexp, hffrac, hbuf, hsize, herrors⟩ := h
  have hread (P : Ubound → Prop) (hold : ∀ j, P (s.readB j)) (hnew : P v) (j : BReg) :
      P ({ s with b := s.b.set i v }.readB j) := by
    simp only [State.readB, Fin.getElem_fin, Vector.getElem_set]
    split
    · exact hnew
    · exact hold j
  exact ⟨hwf, hcaps, hinit, fun henv => ⟨(hcanon henv).1, hread _ (hcanon henv).2 (hv henv)⟩,
    ⟨hwu, hread (fun x => x.l < 2 ^ s.cfg.width ∧ x.r < 2 ^ s.cfg.width) hwb hfit⟩, hg, hfexp, hffrac, hbuf, hsize,
    herrors⟩

/-- A G register set to ends within its widths. -/
theorem State.Inv.writeG (i : GReg) {v : Gbnd} (hv : Storable s.cfg v.l ∧ Storable s.cfg v.r) : (s.writeG i v).Inv := by
  obtain ⟨hwf, hcaps, hinit, hcanon, hwidth, hg, hfexp, hffrac, hbuf, hsize, herrors⟩ := h
  refine ⟨hwf, hcaps, hinit, hcanon, hwidth, fun j => ?_, hfexp, hffrac, hbuf, hsize, herrors⟩
  rw [State.readG_writeG]
  split
  · exact hv
  · exact hg j

theorem State.Inv.storeG (i : GReg) (v : Gbnd) : (s.storeG i v).Inv := h.writeG i (fitGbnd_storable s.cfg v)

/-- The unit's own writes are canonical (10_state.md R24). -/
theorem State.Inv.writeU (i : UReg) (v : Unum) : (s.writeU i v).Inv := by
  have hcanon := canonical_canon s.env v
  obtain ⟨-, hcaps, -⟩ := id h
  exact h.setU i (State.lt_width_of_canonical hcaps hcanon) fun _ => hcanon

theorem State.Inv.writeB (i : BReg) (v : Ubound) : (s.writeB i v).Inv := by
  have hl := canonical_canon s.env v.l
  have hr := canonical_canon s.env v.r
  obtain ⟨-, hcaps, -⟩ := id h
  exact h.setB i ⟨State.lt_width_of_canonical hcaps hl, State.lt_width_of_canonical hcaps hr⟩ fun _ => ⟨hl, hr⟩

theorem State.Inv.setBuf {m : Memory} (hm : Memory.wf m) (hsize : ∀ c ∈ m, c.1 < s.cfg.bufsz) :
    { s with buf := m }.Inv := by
  obtain ⟨hwf, hcaps, hinit, hcanon, hwidth, hg, hfexp, hffrac, -, -, herrors⟩ := h
  exact ⟨hwf, hcaps, hinit, hcanon, hwidth, hg, hfexp, hffrac, hm, hsize, herrors⟩

theorem State.Inv.setPayload {x : Tag} {e f : Nat} (he : e < 2 ^ 2 ^ s.cfg.essCap) (hf : f < 2 ^ 2 ^ s.cfg.fssCap) :
    { s with tag := x, fexp := e, ffrac := f }.Inv := by
  obtain ⟨hwf, hcaps, hinit, hcanon, hwidth, hg, -, -, hbuf, hsize, herrors⟩ := h
  exact ⟨hwf, hcaps, hinit, hcanon, hwidth, hg, he, hf, hbuf, hsize, herrors⟩

end

theorem storable_init (c : Config) : Storable c Gnum.init := ⟨Nat.two_pow_pos _, expFits_zero c⟩

/-- A cleared data state meets the invariant under any environment within the caps (10_state.md R22). -/
theorem State.Inv.clearData {s : State} (h : s.Inv) {E : Env} (hcaps : (s.clearData.writeEnv E).envWithinCaps)
    (hinit : E.v = false → E = Env.init) : (s.clearData.writeEnv E).Inv := by
  obtain ⟨hwf, -, -, -, -, -, -, -, hbuf, hsize, herrors⟩ := h
  have hu (i : UReg) : (s.clearData.writeEnv E).readU i = 0 := by simp [State.readU]
  have hb (i : BReg) : (s.clearData.writeEnv E).readB i = Ubound.init := by simp [State.readB]
  have hg (i : GReg) : (s.clearData.writeEnv E).readG i = Gbnd.init := by simp [State.readG]
  refine ⟨hwf, hcaps, hinit, fun _ => ⟨fun i => ?_, fun i => ?_⟩, ⟨fun i => ?_, fun i => ?_⟩, fun i => ?_,
    Nat.two_pow_pos _, Nat.two_pow_pos _, hbuf, hsize, herrors⟩
  · rw [hu]; exact canonical_zero _
  · rw [hb]; exact ⟨canonical_zero _, canonical_zero _⟩
  · rw [hu]; exact Nat.two_pow_pos _
  · rw [hb]; exact ⟨Nat.two_pow_pos _, Nat.two_pow_pos _⟩
  · rw [hg]; exact ⟨storable_init _, storable_init _⟩

/-- The reset state of a legal build meets the invariant (70_reset_and_hazards.md R260). -/
theorem resetOf_inv {c : Config} (hwf : c.wf) : (State.resetOf c).Inv := by
  have hu (i : UReg) : (State.resetOf c).readU i = 0 := by simp [State.readU, State.resetOf]
  have hb (i : BReg) : (State.resetOf c).readB i = Ubound.init := by simp [State.readB, State.resetOf]
  have hg (i : GReg) : (State.resetOf c).readG i = Gbnd.init := by simp [State.readG, State.resetOf]
  refine ⟨hwf, ⟨Nat.zero_le _, Nat.zero_le _⟩, fun _ => rfl, fun hv => absurd hv Bool.false_ne_true,
    ⟨fun i => ?_, fun i => ?_⟩, fun i => ?_, Nat.two_pow_pos _, Nat.two_pow_pos _, ⟨List.Pairwise.nil, nofun⟩, nofun,
    nofun, nofun, nofun, fun _ _ => rfl⟩
  · rw [hu]; exact Nat.two_pow_pos _
  · rw [hb]; exact ⟨Nat.two_pow_pos _, Nat.two_pow_pos _⟩
  · rw [hg]; exact ⟨storable_init _, storable_init _⟩

/-! ### The commands -/

section
variable {s : State} (h : s.Inv)
include h

/-- SETENV establishes an environment within the caps, or is fatal (40_env_move.md R91). -/
theorem State.Inv.exec_setenv (herr : s.status.err = false) {ess fss : BitVec 4} {t : State}
    (ht : exec (.setenv ess fss) s = .next t) : t.Inv := by
  by_cases hcaps : s.cfg.essCap < ess.toNat ∨ s.cfg.fssCap < fss.toNat
  · rw [exec_setenv_beyond_cap hcaps] at ht
    cases ht
    exact h.goFatal herr
  · obtain ⟨hess, hfss⟩ := not_or.1 hcaps
    rw [exec_setenv_within_caps (Nat.le_of_not_lt hess) (Nat.le_of_not_lt hfss)] at ht
    cases ht
    exact h.clearData ⟨Nat.le_of_not_lt hess, Nat.le_of_not_lt hfss⟩ fun hv => absurd hv Bool.true_eq_false.mp

theorem State.Inv.dtag (u : Unum) :
    { s with tag := tagOf s.env u, fexp := expoOf s.env u, ffrac := fracOf s.env u }.Inv := by
  obtain ⟨-, ⟨hess, hfss⟩, -⟩ := id h
  have hes := (esOf_le s.env u).trans (Nat.pow_le_pow_right (by decide) hess)
  have hfs := (fsOf_le s.env u).trans (Nat.pow_le_pow_right (by decide) hfss)
  exact h.setPayload ((expoOf_lt s.env u).trans_le (Nat.pow_le_pow_right (by decide) hes))
    ((fracOf_lt s.env u).trans_le (Nat.pow_le_pow_right (by decide) hfs))

/-- The report of a run is no part of the invariant. -/
theorem State.Inv.packUctl (run : Option Unified) : (s.packUctl run).Inv := by
  cases run <;> exact h

variable (hfatal : s.status.fatal = false)
include hfatal

/-- A command that needs an environment keeps the invariant if what it does under one keeps it. -/
theorem State.Inv.of_needEnv {k t : State} (ht : s.needEnv k = .next t) (hk : s.env.v = true → k.Inv) : t.Inv := by
  obtain ⟨hv, rfl⟩ | ⟨-, rfl⟩ := State.needEnv_cases ht
  · exact hk hv
  · exact h.raise hfatal nofun

theorem State.Inv.storeBytes (a : Nat) (bs : List Byte) : (s.storeBytes a bs).Inv := by
  obtain ⟨-, hstore⟩ | ⟨hfits, hstore⟩ := s.storeBytes_cases a bs
  · rw [hstore]
    exact h.raise hfatal nofun
  · rw [hstore]
    obtain ⟨-, -, -, -, -, -, -, -, hbuf, hsize, -⟩ := id h
    refine h.setBuf (Memory.wf_writeBytes hbuf a bs) fun c hc => ?_
    obtain hold | ⟨-, hnew⟩ := Memory.mem_writeBytes hc
    · exact hsize c hold
    · exact hnew.trans_le hfits

theorem State.Inv.onLoad {α : Type} {x : Loaded α} {k : α → State} (herror : ∀ e, x = .error e → e ≠ .config)
    (hok : ∀ v, (k v).Inv) : (s.onLoad x k).Inv := by
  obtain ⟨e, hx, hload⟩ | ⟨v, -, hload⟩ := s.onLoad_cases x k
  · rw [hload]
    exact h.raise hfatal (herror e hx)
  · rw [hload]
    exact hok v

/-- A command runs in no fatal state, and under ERR = 1 only if it is CLRERR (30_encoding.md R73). Each writes
registers by the unit's own writes, raises an error, or sets fields the invariant does not see. -/
theorem State.Inv.exec {i : Instr} (herr : s.status.err = false ∨ i = .clrerr) {t : State}
    (ht : Machine.exec i s = .next t) : t.Inv := by
  cases i with
  | nop => cases ht; exact h
  | setenv ess fss => exact h.exec_setenv (herr.resolve_right nofun) ht
  | clrenv => cases ht; exact h.clearData ⟨Nat.zero_le _, Nat.zero_le _⟩ fun _ => rfl
  | clrerr => cases ht; exact h.clearError hfatal
  | ldc rd id =>
    refine h.of_needEnv hfatal ht fun _ => ?_
    cases pattern s.env id.toNat with
    | none => exact h.raise hfatal nofun
    | some v => exact h.writeU rd v
  | movu rd ra | getl rd ra | getr rd ra => exact h.of_needEnv hfatal ht fun _ => h.writeU rd _
  | movb rd ra | mkb rd ra rb pair => exact h.of_needEnv hfatal ht fun _ => h.writeB rd _
  | movg rd ra =>
    obtain ⟨-, -, -, -, -, hg, -⟩ := id h
    exact h.of_needEnv hfatal ht fun _ => h.writeG rd (hg ra)
  | ldu rd addr =>
    exact h.of_needEnv hfatal ht fun _ =>
      h.onLoad hfatal (fun e he => State.unpackU_error he ▸ nofun) fun x => h.writeU rd x.unum
  | ldb rd addr =>
    exact h.of_needEnv hfatal ht fun _ =>
      h.onLoad hfatal (fun e he => by obtain rfl | rfl := State.unpackB_error he <;> nofun) fun x => h.writeB rd x
  | stu ra addr | stb ra addr => exact h.of_needEnv hfatal ht fun _ => h.storeBytes hfatal _ _
  | dtag ra => exact h.of_needEnv hfatal ht fun _ => h.dtag (s.readU ra)
  | etag rd =>
    refine h.of_needEnv hfatal ht fun _ => ?_
    split
    · exact h.writeU rd _
    · exact h.raise hfatal nofun
  | promf rd ra | prome rd ra =>
    refine h.of_needEnv hfatal ht fun _ => ?_
    dsimp only
    split
    · exact h.raise hfatal nofun
    · exact (h.writeU rd _).setStatus rfl rfl
  | promp rd ra =>
    refine h.of_needEnv hfatal ht fun _ => ?_
    dsimp only
    split
    · exact h.raise hfatal nofun
    · exact ((h.writeU rd _).writeU ra _).setStatus rfl rfl
  | demf rd ra | deme rd ra => exact h.of_needEnv hfatal ht fun _ => (h.writeU rd _).setStatus rfl rfl
  | encl rd ra | encr rd ra =>
    refine h.of_needEnv hfatal ht fun _ => ?_
    dsimp only
    split
    · exact (h.writeU rd _).setStatus rfl rfl
    · exact (h.writeU rd _).setStatus rfl rfl
  | pack rd ra => exact h.of_needEnv hfatal ht fun _ => State.Inv.setStatus ((h.writeB rd _).packUctl _) rfl rfl
  | unify rd ra => exact h.of_needEnv hfatal ht fun _ => State.Inv.setStatus (h.writeB rd _) rfl rfl
  | clt ra rb | cgt ra rb | cneq ra rb | cseq ra rb | cidn ra rb =>
    exact h.of_needEnv hfatal ht fun _ => h.setStatus rfl rfl
  | u2g rd ra | b2g rd ra | negg rd ra | min rd ra rb | max rd ra rb | clipl rd ra rb | cliph rd ra rb =>
    exact h.of_needEnv hfatal ht fun _ => (h.storeG rd _).setStatus rfl rfl

end

/-! ### The step -/

/-- CLRERR's opcode has no other command (30_encoding.md R76). -/
theorem eq_clrerr_of_opOf {w : Word} {i : Instr} (hop : opOf w = 0x03) (hi : decode w = .ok i) : i = .clrerr := by
  have hword := eq_encode_clrerr_of_legalWord hop (decode_succeeds_iff_legalWord.mp ⟨i, hi⟩)
  rw [hword, decode_encode rfl] at hi
  cases hi
  rfl

section
variable {s : State} (h : s.Inv)
include h

theorem State.Inv.unitStep {t : State} (ht : Machine.unitStep s = .next t) : t.Inv := by
  cases hd : s.drops with
  | true =>
    rw [unitStep_of_drops hd] at ht
    cases ht
    exact h.setStatus rfl rfl
  | false =>
    obtain ⟨hfatal, herr⟩ := State.drops_eq_false_iff.mp hd
    cases hi : decode s.cmd with
    | error x =>
      rw [unitStep_of_decode_error hd hi] at ht
      cases ht
      exact h.raise hfatal nofun
    | ok i =>
      obtain ⟨k, hk⟩ := exec_answers i s
      rw [unitStep_of_exec hd hi hk] at ht
      cases ht
      exact (h.exec hfatal (herr.imp_right fun hop => eq_clrerr_of_opOf hop hi) hk).setStatus rfl rfl

/-- One end of `G[k]` replaced by one within the register's widths. -/
theorem State.Inv.setGEnd (k : GReg) (side : Side) {f : Gnum → Gnum}
    (hf : ∀ p, Storable s.cfg p → Storable s.cfg (f p)) : (s.setGEnd k side f).Inv := by
  obtain ⟨-, -, -, -, -, hg, -⟩ := id h
  obtain ⟨hl, hr⟩ := hg k
  cases side with
  | left => exact h.writeG k ⟨hf _ hl, hr⟩
  | right => exact h.writeG k ⟨hl, hf _ hr⟩

/-- A host write keeps the bits that fit the register (10_state.md R33). -/
theorem State.Inv.writeReg {r : HostReg} (hr : ∀ a, r = .buf a → a < s.cfg.bufsz) (v : Nat) : (s.writeReg r v).Inv := by
  obtain ⟨-, -, -, hcanon, ⟨-, hwb⟩, hg, hfexp, hffrac, hbuf, hsize, -⟩ := id h
  obtain ⟨hfit, hunum⟩ := s.hostUnum_spec v
  cases r with
  | cmd =>
    rw [State.writeReg, State.writeCmd]
    split <;> exact h.setStatus rfl rfl
  | status | errcode | env | uctl | unmapped => exact h
  | tag => exact h.setPayload hfexp hffrac
  | fexp => exact h.setPayload (x := s.tag) (slice_lt _ _ _) hffrac
  | ffrac => exact h.setPayload (x := s.tag) hfexp (slice_lt _ _ _)
  | u i => exact h.setU i hfit hunum
  | bP j => exact h.setB j (hwb j) fun hv => (hcanon hv).2 j
  | bL j => exact h.setB j ⟨hfit, (hwb j).2⟩ fun hv => ⟨hunum hv, ((hcanon hv).2 j).2⟩
  | bR j => exact h.setB j ⟨(hwb j).1, hfit⟩ fun hv => ⟨((hcanon hv).2 j).1, hunum hv⟩
  | gNan k => exact h.writeG k (hg k)
  | gFlags k side => exact h.setGEnd k side fun _ hp => hp
  | gExp k side => exact h.setGEnd k side fun _ hp => ⟨hp.1, expFits_wrapExp s.cfg v⟩
  | gMan k side => exact h.setGEnd k side fun _ hp => ⟨slice_lt _ _ _, hp.2⟩
  | buf a =>
    refine h.setBuf (Memory.wf_write hbuf a _) fun c hc => ?_
    obtain hold | ⟨rfl, -⟩ := Memory.mem_write hc
    · exact hsize c hold
    · exact hr a rfl

end

theorem State.Inv.hostAct {s : State} (h : s.Inv) (a : HostAction) : (s.hostAct a).Inv := by
  cases a with
  | read addr => exact h
  | write addr v => exact h.writeReg (fun _ => lt_bufsz_of_hostReg) v
  | wait => exact h
  | reset =>
    obtain ⟨hwf, -⟩ := h
    exact resetOf_inv hwf

theorem State.Inv.hostStep {s : State} (h : s.Inv) : s.hostStep.Inv := by
  cases hin : s.hostIn with
  | nil => rwa [State.hostStep, hin]
  | cons a rest =>
    rw [State.hostStep, hin]
    exact State.Inv.hostAct (s := { s with hostIn := rest }) h a

/-- The counter of open choices is no part of the invariant. -/
theorem State.Inv.countTurn {s : State} (h : s.Inv) : s.countTurn.Inv := by
  rw [State.countTurn]
  split <;> exact h

/-! ### The obligations -/

theorem build_wf : Config.build.wf := by decide

/-- Settles O16. -/
theorem resetSatisfiesTheInvariant : Obligations.ResetSatisfiesTheInvariant := by
  unfold Obligations.ResetSatisfiesTheInvariant State.reset
  exact resetOf_inv build_wf

/-- Settles O17. The unit's step keeps the invariant along the decode order, a host action because a host write keeps
the bits that fit, and an idle step changes nothing. -/
theorem stepKeepsTheInvariant : Obligations.StepKeepsTheInvariant := by
  unfold Obligations.StepKeepsTheInvariant
  intro s t h ht
  cases hturn : s.turn with
  | unit =>
    rw [step_of_turn_unit hturn] at ht
    exact h.countTurn.unitStep ht
  | host =>
    rw [step_of_turn_host hturn] at ht
    cases ht
    exact h.countTurn.hostStep
  | idle =>
    rw [step_of_turn_idle hturn] at ht
    cases ht
    exact h

end Sys2Proof.Machine
end

section
/-! PROOF. What a command leaves unchanged (10_state.md R34; the destinations of each command's rule): one frame for
all commands, kept by every update the command may make; O18 and O19. -/

namespace Sys2Proof.Machine

/-- `t` is `s` but for what the rule of `i` names as written. -/
structure Frame (i : Instr) (s t : State) : Prop where
  regU : ∀ r, mayWrite i (.regU r) = false → t.readU r = s.readU r
  regB : ∀ r, mayWrite i (.regB r) = false → t.readB r = s.readB r
  regG : ∀ r, mayWrite i (.regG r) = false → t.readG r = s.readG r
  env : mayWrite i .env = false → t.env = s.env
  tag : mayWrite i .tag = false → t.tag = s.tag
  fexp : mayWrite i .fexp = false → t.fexp = s.fexp
  ffrac : mayWrite i .ffrac = false → t.ffrac = s.ffrac
  uctl : mayWrite i .uctl = false → t.uctl = s.uctl
  flags : ∀ f, f ∉ flagsWritten i → t.status.flag f = s.status.flag f
  ovr : i ≠ .clrerr → t.status.ovr = s.status.ovr
  fatal : (∀ e f, i ≠ .setenv e f) → t.status.fatal = s.status.fatal
  cfg : t.cfg = s.cfg
  cmd : t.cmd = s.cmd
  hostIn : t.hostIn = s.hostIn
  hostOut : t.hostOut = s.hostOut
  tick : t.tick = s.tick
  buf : Memory.wf s.buf → ∀ a, ¬ s.storedBytes i a → t.buf.read a = s.buf.read a

namespace Frame

section
variable {i : Instr} {s t : State}

theorem refl (i : Instr) (s : State) : Frame i s s := by
  constructor <;> intros <;> rfl

/-- An error writes no result flag, OVR or FATAL (60_exceptions.md R241). -/
theorem raise (i : Instr) (s : State) (x : ErrCode) : Frame i s (s.raise x) :=
  { refl i s with flags := fun f _ => by cases f <;> rfl }

theorem of_needEnv {k : State} (h : s.needEnv k = .next t) (hk : Frame i s k) : Frame i s t := by
  obtain ⟨-, rfl⟩ | ⟨-, rfl⟩ := State.needEnv_cases h
  · exact hk
  · exact raise i s _

theorem of_ite {p : Prop} [Decidable p] {k l : State} (hk : Frame i s k) (hl : Frame i s l) :
    Frame i s (if p then k else l) := by
  split
  · exact hk
  · exact hl

theorem of_onLoad {α : Type} {x : Loaded α} {k : α → State} (hk : ∀ v, Frame i s (k v)) : Frame i s (s.onLoad x k) := by
  obtain ⟨e, -, h⟩ | ⟨v, -, h⟩ := s.onLoad_cases x k
  · exact h ▸ raise i s e
  · exact h ▸ hk v

/-! ### The updates a command makes -/

variable (h : Frame i s t)
include h

theorem writeU {r : UReg} (hr : mayWrite i (.regU r) = true) (v : Unum) : Frame i s (t.writeU r v) :=
  { h with
    regU := fun r' hr' => by
      have hne : r ≠ r' := fun he => by simp [← he, hr] at hr'
      rw [State.readU_writeU, if_neg hne, h.regU r' hr'] }

theorem writeB {r : BReg} (hr : mayWrite i (.regB r) = true) (v : Ubound) : Frame i s (t.writeB r v) :=
  { h with
    regB := fun r' hr' => by
      have hne : r ≠ r' := fun he => by simp [← he, hr] at hr'
      rw [State.readB_writeB, if_neg hne, h.regB r' hr'] }

theorem writeG {r : GReg} (hr : mayWrite i (.regG r) = true) (v : Gbnd) : Frame i s (t.writeG r v) :=
  { h with
    regG := fun r' hr' => by
      have hne : r ≠ r' := fun he => by simp [← he, hr] at hr'
      rw [State.readG_writeG, if_neg hne, h.regG r' hr'] }

/-- A result flag the command's row lists may change (10_state.md R34). -/
theorem setFlags {x : Status} (hflags : ∀ f, f ∉ flagsWritten i → x.flag f = t.status.flag f)
    (hovr : x.ovr = t.status.ovr) (hfatal : x.fatal = t.status.fatal) : Frame i s { t with status := x } :=
  { h with
    flags := fun f hf => (hflags f hf).trans (h.flags f hf)
    ovr := fun hi => hovr.trans (h.ovr hi)
    fatal := fun hi => hfatal.trans (h.fatal hi) }

/-- One result flag of the command's row set. -/
theorem setFlag {f : Flag} (hf : f ∈ flagsWritten i) {x : Status} (hflags : ∀ f', f' ≠ f → x.flag f' = t.status.flag f')
    (hovr : x.ovr = t.status.ovr) (hfatal : x.fatal = t.status.fatal) : Frame i s { t with status := x } :=
  h.setFlags (fun f' hf' => hflags f' fun he => hf' (he ▸ hf)) hovr hfatal

theorem setT (hf : .t ∈ flagsWritten i) (x : Bool) : Frame i s (t.setT x) :=
  h.setFlag hf (fun f hne => by cases f with | t => exact absurd rfl hne | _ => rfl) rfl rfl

theorem setClip (hf : .clip ∈ flagsWritten i) (x : Bool) : Frame i s (t.setClip x) :=
  h.setFlag hf (fun f hne => by cases f with | clip => exact absurd rfl hne | _ => rfl) rfl rfl

theorem setInex (hf : .inex ∈ flagsWritten i) (x : Bool) : Frame i s (t.setInex x) :=
  h.setFlag hf (fun f hne => by cases f with | inex => exact absurd rfl hne | _ => rfl) rfl rfl

theorem setLim (hf : .lim ∈ flagsWritten i) (x : Bool) : Frame i s (t.setLim x) :=
  h.setFlag hf (fun f hne => by cases f with | lim => exact absurd rfl hne | _ => rfl) rfl rfl

theorem setUni (hf : .uni ∈ flagsWritten i) (x : Bool) : Frame i s (t.setUni x) :=
  h.setFlag hf (fun f hne => by cases f with | uni => exact absurd rfl hne | _ => rfl) rfl rfl

theorem setNanf (hf : .nanf ∈ flagsWritten i) (x : Bool) : Frame i s (t.setNanf x) :=
  h.setFlag hf (fun f hne => by cases f with | nanf => exact absurd rfl hne | _ => rfl) rfl rfl

theorem writeUctl (hu : mayWrite i .uctl = true) (run : Option Unified) : Frame i s (t.packUctl run) := by
  have hne : mayWrite i .uctl ≠ false := by simp [hu]
  cases run with
  | none => exact h
  | some r => exact { h with uctl := fun hu' => absurd hu' hne }

end

/-- A store writes its packed image only, or raises E_RANGE. -/
theorem storeBytes {i : Instr} {s : State} {a : Nat} {bs : List Byte}
    (h : ∀ c, ¬ s.storedBytes i c → c < a ∨ a + bs.length ≤ c) : Frame i s (s.storeBytes a bs) := by
  obtain ⟨-, hstore⟩ | ⟨-, hstore⟩ := s.storeBytes_cases a bs
  · exact hstore ▸ raise i s _
  · rw [hstore]
    exact { refl i s with buf := fun hwf c hc => Memory.read_writeBytes_outside hwf (h c hc) }

/-- SETENV and CLRENV may write everything but the buffer, OVR and FATAL (10_state.md R22). -/
theorem clearData {i : Instr} (hw : ∀ p, mayWrite i p = (p != .buf)) (hf : ∀ f, f ∈ flagsWritten i) (s : State)
    (E : Env) : Frame i s (s.clearData.writeEnv E) := by
  have hwrites {p : Place} (hp : p ≠ .buf) : mayWrite i p ≠ false := by simp [hw, hp]
  exact { refl i s with
    regU := fun _ hr => absurd hr (hwrites nofun)
    regB := fun _ hr => absurd hr (hwrites nofun)
    regG := fun _ hr => absurd hr (hwrites nofun)
    env := fun hr => absurd hr (hwrites nofun)
    tag := fun hr => absurd hr (hwrites nofun)
    fexp := fun hr => absurd hr (hwrites nofun)
    ffrac := fun hr => absurd hr (hwrites nofun)
    uctl := fun hr => absurd hr (hwrites nofun)
    flags := fun f hne => absurd (hf f) hne }

end Frame

/-! ### The commands -/

theorem exec_setenv_frame {ess fss : BitVec 4} {s t : State} (h : exec (.setenv ess fss) s = .next t) :
    Frame (.setenv ess fss) s t := by
  by_cases hcaps : s.cfg.essCap < ess.toNat ∨ s.cfg.fssCap < fss.toNat
  · rw [exec_setenv_beyond_cap hcaps] at h
    cases h
    exact { Frame.refl _ s with
      flags := fun f _ => by cases f <;> rfl
      fatal := fun hi => absurd rfl (hi ess fss) }
  · rw [exec_setenv_within_caps (by omega) (by omega)] at h
    cases h
    exact .clearData (fun _ => rfl) (fun f => by cases f <;> simp [flagsWritten]) s _

/-- Each command's updates are of places its rule names and flags its row lists. -/
theorem exec_frame {i : Instr} {s t : State} (h : exec i s = .next t) : Frame i s t := by
  have start := Frame.refl i s
  cases i with
  | nop => cases h; exact start
  | setenv ess fss => exact exec_setenv_frame h
  | clrenv => cases h; exact .clearData (fun _ => rfl) (fun f => by cases f <;> simp [flagsWritten]) s _
  | clrerr =>
    cases h
    exact { start with flags := fun f _ => by cases f <;> rfl, ovr := fun hi => absurd rfl hi }
  | ldc rd id =>
    refine .of_needEnv h ?_
    cases pattern s.env id.toNat with
    | none => exact .raise _ s _
    | some v => exact start.writeU (by simp [mayWrite]) v
  | movu rd ra | getl rd ra | getr rd ra => exact .of_needEnv h (start.writeU (by simp [mayWrite]) _)
  | movb rd ra | mkb rd ra rb pair => exact .of_needEnv h (start.writeB (by simp [mayWrite]) _)
  | movg rd ra => exact .of_needEnv h (start.writeG (by simp [mayWrite]) _)
  | ldu rd addr => exact .of_needEnv h (.of_onLoad fun _ => start.writeU (by simp [mayWrite]) _)
  | ldb rd addr => exact .of_needEnv h (.of_onLoad fun _ => start.writeB (by simp [mayWrite]) _)
  | stu ra addr | stb ra addr =>
    refine .of_needEnv h (.storeBytes fun c hc => ?_)
    rw [State.storedBytes] at hc
    omega
  | dtag ra =>
    refine .of_needEnv h { start with tag := fun hw => ?_, fexp := fun hw => ?_, ffrac := fun hw => ?_ }
    all_goals simp [mayWrite] at hw
  | etag rd =>
    refine .of_needEnv h (.of_ite ?_ (.raise _ s _))
    exact { start.writeU (r := rd) (by simp [mayWrite]) _ with tag := fun hw => by simp [mayWrite] at hw }
  | promf rd ra | prome rd ra =>
    exact .of_needEnv h (.of_ite (.raise _ s _)
      ((start.writeU (by simp [mayWrite]) _).setLim (by simp [flagsWritten]) _))
  | promp rd ra =>
    exact .of_needEnv h (.of_ite (.raise _ s _)
      (((start.writeU (by simp [mayWrite]) _).writeU (by simp [mayWrite]) _).setLim (by simp [flagsWritten]) _))
  | demf rd ra | deme rd ra =>
    exact .of_needEnv h (((start.writeU (by simp [mayWrite]) _).setLim (by simp [flagsWritten]) _).setInex
      (by simp [flagsWritten]) _)
  | encl rd ra | encr rd ra =>
    exact .of_needEnv h (.of_ite
      (((start.writeU (by simp [mayWrite]) _).setInex (by simp [flagsWritten]) _).setNanf (by simp [flagsWritten]) _)
      (((start.writeU (by simp [mayWrite]) _).setInex (by simp [flagsWritten]) _).setNanf (by simp [flagsWritten]) _))
  | pack rd ra =>
    exact .of_needEnv h ((((start.writeB (by simp [mayWrite]) _).writeUctl (by simp [mayWrite]) _).setUni
      (by simp [flagsWritten]) _).setNanf (by simp [flagsWritten]) _)
  | unify rd ra =>
    exact .of_needEnv h ((((start.writeB (by simp [mayWrite]) _).writeUctl (by simp [mayWrite]) (some _)).setUni
      (by simp [flagsWritten]) _).setNanf (by simp [flagsWritten]) _)
  | clt ra rb | cgt ra rb | cneq ra rb | cseq ra rb | cidn ra rb =>
    exact .of_needEnv h (start.setT (by simp [flagsWritten]) _)
  | u2g rd ra | b2g rd ra | negg rd ra | min rd ra rb | max rd ra rb =>
    exact .of_needEnv h ((start.writeG (by simp [mayWrite]) _).setNanf (by simp [flagsWritten]) _)
  | clipl rd ra rb | cliph rd ra rb =>
    exact .of_needEnv h (((start.writeG (by simp [mayWrite]) _).setClip (by simp [flagsWritten]) _).setNanf
      (by simp [flagsWritten]) _)

/-! ### The obligations -/

/-- Settles O18. -/
theorem resultFlagsChangeOnlyByTheirCommands : Obligations.ResultFlagsChangeOnlyByTheirCommands :=
  fun _ _ _ f h => (exec_frame h).flags f

/-- Settles O19. -/
theorem commandsChangeOnlyTheirDestinations : Obligations.CommandsChangeOnlyTheirDestinations := by
  unfold Obligations.CommandsChangeOnlyTheirDestinations
  intro i s t h
  have hframe := exec_frame h
  exact ⟨hframe.regU, hframe.regB, hframe.regG, hframe.env, hframe.tag, hframe.fexp, hframe.ffrac, hframe.uctl,
    hframe.ovr, hframe.fatal, hframe.cfg, hframe.cmd, hframe.hostIn, hframe.hostOut, hframe.tick, hframe.buf⟩

end Sys2Proof.Machine
end

section
/-! PROOF. The step and the host (70_reset_and_hazards.md R260, R263 to R265): who moves, what a pending access, a WAIT
and the reset input do, what keeps OVR; O5, O9, O10, O15 and O21. -/

namespace Sys2Proof.Machine

/-! ### Who moves -/

theorem contested_iff {s : State} :
    s.contested = true ↔ s.status.busy = true ∧ ∃ a rest, s.hostIn = a :: rest ∧ a ≠ .wait := by
  cases hin : s.hostIn with
  | nil => simp [State.contested, hin]
  | cons a rest => cases a <;> simp [State.contested, hin]

theorem State.turn_of_contested {s : State} (h : s.contested = true) : s.turn = .host ∨ s.turn = .unit := by
  rw [State.turn, if_pos h]
  split
  · exact .inl rfl
  · exact .inr rfl

theorem State.turn_of_busy {s : State} (hbusy : s.status.busy = true) (h : s.contested = false) : s.turn = .unit := by
  simp [State.turn, h, hbusy]

theorem State.not_contested_of_not_busy {s : State} (h : s.status.busy = false) : s.contested = false :=
  Bool.eq_false_iff.2 fun hc => Bool.false_ne_true (h.symm.trans (contested_busy hc))

theorem State.turn_of_not_busy {s : State} (h : s.status.busy = false) :
    s.turn = if s.hostIn.isEmpty then .idle else .host := by
  simp [State.turn, State.not_contested_of_not_busy h, h]

theorem State.countTurn_of_contested {s : State} (h : s.contested = true) :
    s.countTurn = { s with tick := s.tick + 1 } := if_pos h

theorem State.countTurn_of_not_contested {s : State} (h : s.contested = false) : s.countTurn = s := by
  rw [State.countTurn, h, if_neg Bool.false_ne_true]

theorem State.hostStep_cons {s : State} {a : HostAction} {rest : List HostAction} (h : s.hostIn = a :: rest) :
    s.hostStep = State.hostAct { s with hostIn := rest } a := by
  rw [State.hostStep, h]

/-! ### The step, by who can move (70_reset_and_hazards.md R264, R265) -/

/-- Both agents can move, and one of them does. -/
theorem step_of_contested {s : State} {a : HostAction} {rest : List HostAction} (hbusy : s.status.busy = true)
    (hin : s.hostIn = a :: rest) (ha : a ≠ .wait) :
    step s = .next (State.hostAct { s with hostIn := rest, tick := s.tick + 1 } a) ∨
      step s = unitStep { s with tick := s.tick + 1 } := by
  have hc := contested_iff.2 ⟨hbusy, a, rest, hin, ha⟩
  rw [← State.countTurn_of_contested hc]
  obtain hturn | hturn := State.turn_of_contested hc
  · left
    rw [step_of_turn_host hturn, State.hostStep_cons ((State.countTurn_hostIn s).trans hin),
      State.countTurn_of_contested hc]
  · exact .inr (step_of_turn_unit hturn)

/-- A command is in flight and the host has no access to make, or waits. -/
theorem step_of_busy_alone {s : State} (hbusy : s.status.busy = true)
    (hin : s.hostIn = [] ∨ ∃ rest, s.hostIn = .wait :: rest) : step s = unitStep s := by
  have hc : s.contested = false := by
    rw [Bool.eq_false_iff, Ne, contested_iff]
    rintro ⟨-, a, rest, hcons, ha⟩
    obtain hnil | ⟨rest', hwait⟩ := hin
    · cases hnil.symm.trans hcons
    · cases hwait.symm.trans hcons
      exact ha rfl
  rw [step_of_turn_unit (State.turn_of_busy hbusy hc), State.countTurn_of_not_contested hc]

theorem step_of_not_busy {s : State} {a : HostAction} {rest : List HostAction} (hbusy : s.status.busy = false)
    (hin : s.hostIn = a :: rest) : step s = .next (State.hostAct { s with hostIn := rest } a) := by
  have hturn : s.turn = .host := by simp [State.turn_of_not_busy hbusy, hin]
  rw [step_of_turn_host hturn, State.countTurn_of_not_contested (State.not_contested_of_not_busy hbusy),
    State.hostStep_cons hin]

theorem step_of_idle {s : State} (hbusy : s.status.busy = false) (hin : s.hostIn = []) : step s = .next s :=
  step_of_turn_idle (by simp [State.turn_of_not_busy hbusy, hin])

/-! ### What keeps OVR (70_reset_and_hazards.md R264) -/

/-- The unit clears OVR by CLRERR only. -/
theorem unitStep_keeps_ovr {s t : State} (hclrerr : decode s.cmd ≠ .ok .clrerr) (h : unitStep s = .next t) :
    t.status.ovr = s.status.ovr := by
  cases hd : s.drops with
  | true =>
    rw [unitStep_of_drops hd] at h
    cases h
    rfl
  | false =>
    cases hi : decode s.cmd with
    | error x =>
      rw [unitStep_of_decode_error hd hi] at h
      cases h
      rfl
    | ok i =>
      obtain ⟨k, hk⟩ := exec_answers i s
      rw [unitStep_of_exec hd hi hk] at h
      cases h
      exact (exec_frame hk).ovr fun he => hclrerr (he ▸ hi)

theorem State.writeReg_ovr {s : State} (hovr : s.status.ovr = true) (r : HostReg) (v : Nat) :
    (s.writeReg r v).status.ovr = true := by
  cases r with
  | cmd =>
    rw [State.writeReg, State.writeCmd]
    split
    · rfl
    · exact hovr
  | _ => exact hovr

/-- Every host action but the reset input keeps OVR set. -/
theorem State.hostAct_ovr {s : State} (hovr : s.status.ovr = true) {a : HostAction} (ha : a ≠ .reset) :
    (s.hostAct a).status.ovr = true := by
  cases a with
  | read addr => exact hovr
  | write addr v => exact s.writeReg_ovr hovr _ v
  | wait => exact hovr
  | reset => exact absurd rfl ha

theorem step_keeps_ovr {s t : State} (hovr : s.status.ovr = true) (h : step s = .next t)
    (hclrerr : decode s.cmd ≠ .ok .clrerr) (hreset : ∀ rest, s.hostIn ≠ .reset :: rest) : t.status.ovr = true := by
  cases hturn : s.turn with
  | unit =>
    rw [step_of_turn_unit hturn] at h
    rw [unitStep_keeps_ovr (by rwa [State.countTurn_cmd]) h, State.countTurn_status, hovr]
  | host =>
    rw [step_of_turn_host hturn] at h
    cases h
    have hovr' : s.countTurn.status.ovr = true := by rwa [State.countTurn_status]
    cases hin : s.countTurn.hostIn with
    | nil => rwa [State.hostStep, hin]
    | cons a rest =>
      rw [State.countTurn_hostIn] at hin
      rw [State.hostStep_cons ((State.countTurn_hostIn s).trans hin)]
      exact State.hostAct_ovr (s := { s.countTurn with hostIn := rest }) hovr' fun ha => hreset rest (ha ▸ hin)
  | idle =>
    rw [step_of_turn_idle hturn] at h
    cases h
    exact hovr

/-! ### The obligations -/

/-- Settles O5. -/
theorem stepRunsTheDecodedCommand : Obligations.StepRunsTheDecodedCommand := by
  unfold Obligations.StepRunsTheDecodedCommand
  refine ⟨fun s i t hturn hd hi ht => step_of_exec hturn hd hi ht, fun s hc => State.countTurn_of_not_contested hc,
    fun s hc => State.countTurn_of_contested hc, fun s i t hwf herr hfatal ht => ?placed⟩
  case placed =>
    have hcmd : (s.withFetchWord 32 (encode i).toNat).cmd = encode i := tableWord_toNat (encode i)
    have hd : (s.withFetchWord 32 (encode i).toNat).drops = false :=
      State.drops_eq_false_iff.2 ⟨hfatal, .inl herr⟩
    rw [step_of_busy_alone rfl (.inl rfl)]
    exact unitStep_of_exec hd (by rw [hcmd, decode_encode hwf]) ht

/-- Settles O9. -/
theorem hostAccessIsWhollyBeforeOrAfterTheStep : Obligations.HostAccessIsWhollyBeforeOrAfterTheStep := by
  unfold Obligations.HostAccessIsWhollyBeforeOrAfterTheStep
  exact ⟨fun _ _ _ => step_of_contested, fun _ => step_of_busy_alone, fun _ _ _ => step_of_not_busy,
    fun _ => step_of_idle, fun _ _ _ => ⟨rfl, rfl⟩⟩

/-- Settles O10. CMD is written by the arm BUSY selects; a WAIT is no access that competes with a command; only CLRERR
and the reset input clear OVR, which the decode order does not read. -/
theorem commandHandshake : Obligations.CommandHandshake := by
  unfold Obligations.CommandHandshake
  refine ⟨fun s v hbusy => ?latch, fun s v hbusy => ?overrun, fun s => rfl,
    fun s rest hin => ⟨fun hbusy => step_of_busy_alone hbusy (.inr ⟨rest, hin⟩), fun hbusy => ?wait⟩,
    fun s t hovr h hcleared => ?ovr, fun s x => rfl⟩
  case latch =>
    rw [State.hostWrite_of_hostReg (r := .cmd) rfl, State.writeReg, State.writeCmd, hbusy, if_neg Bool.false_ne_true,
      State.latch]
  case overrun => rw [State.hostWrite_of_hostReg (r := .cmd) rfl, State.writeReg, State.writeCmd, if_pos hbusy]
  case wait => exact step_of_not_busy hbusy hin
  case ovr =>
    by_contra hother
    obtain ⟨hclrerr, hreset⟩ := not_or.1 hother
    exact Bool.false_ne_true (hcleared.symm.trans (step_keeps_ovr hovr h hclrerr (not_exists.1 hreset)))

/-- Settles O15. The table is `State.resetOf`, field by field; the reset input is a host action like another, and no
step but it ends the fatal state. -/
theorem resetGivesEveryStateItsValue : Obligations.ResetGivesEveryStateItsValue := by
  unfold Obligations.ResetGivesEveryStateItsValue
  refine ⟨fun c => ?table, ⟨Config.build, rfl⟩, fun s rest hin hbusy => step_of_not_busy hbusy hin,
    fun s rest hin hbusy => step_of_contested hbusy hin nofun, fun s t hfatal h hleft => ?fatal⟩
  case table =>
    intro r
    refine ⟨rfl, rfl, rfl, rfl, rfl, rfl, rfl, rfl, rfl, fun i => ?_, fun j => ?_, fun k => ?_, fun a => rfl⟩
    · simp [r, State.resetOf, State.readU]
    · simp [r, State.resetOf, State.readB, Ubound.init]
    · simp [r, State.resetOf, State.readG, Gbnd.init, Gnum.init, Dyad.zero]
  case fatal =>
    by_contra hreset
    exact Bool.false_ne_true (hleft.symm.trans (step_keeps_fatal hfatal (not_exists.1 hreset) h))

/-- Settles O21. -/
theorem commandsNeedAnEnvironment : Obligations.CommandsNeedAnEnvironment := by
  unfold Obligations.CommandsNeedAnEnvironment
  exact fun i s hv hnop hsetenv hclrenv hclrerr => exec_of_noEnv hv hnop hsetenv hclrenv hclrerr

end Sys2Proof.Machine
end

section
/-! PROOF. LDC (40_env_move.md R94) and a store loaded back (R105; 20_memory.md R55 to R57): O24 and O31. -/

namespace Sys2Proof.Machine

/-! ### LDC: the distinguished patterns (10_state.md R26) -/

theorem maxTag_hasFields (E : Env) (s ub : Bool) {e f : Nat} (he : e < 2 ^ E.esmax) (hf : f < 2 ^ E.fsmax) :
    HasFields E (mk E s e f ub E.esmax E.fsmax) s e f ub E.esmax E.fsmax :=
  mk_hasFields E s ub (Nat.two_pow_pos _) le_rfl (Nat.two_pow_pos _) le_rfl hf he

theorem zeroPattern_hasFields (E : Env) : HasFields E (mk E false 0 0 false 1 1) false 0 0 false 1 1 :=
  mk_hasFields E false false le_rfl (Nat.two_pow_pos _) le_rfl (Nat.two_pow_pos _) (by decide) (by decide)

theorem one_lt_two_pow_esmax (E : Env) : 1 < 2 ^ E.esmax := Nat.one_lt_two_pow (Nat.two_pow_pos _).ne'

theorem one_lt_two_pow_fsmax (E : Env) : 1 < 2 ^ E.fsmax := Nat.one_lt_two_pow (Nat.two_pow_pos _).ne'

/-- Every row of the table is a canonical unum. -/
theorem pattern_canonical {E : Env} {n : Nat} {v : Unum} (h : pattern E n = some v) : Canonical E v := by
  have hes := one_lt_two_pow_esmax E
  have hfs := one_lt_two_pow_fsmax E
  have hrow {s ub : Bool} {e f : Nat} (he : e ≤ ones E.esmax) (hf : f ≤ ones E.fsmax) :
      Canonical E (mk E s e f ub E.esmax E.fsmax) := by
    rw [ones] at he hf
    obtain ⟨-, -, -, -, -, -, hc⟩ := maxTag_hasFields E s ub (e := e) (f := f) (by omega) (by omega)
    exact hc
  have hmaxreal : ones E.fsmax - 1 ≤ ones E.fsmax := Nat.sub_le _ _
  have hone : 1 ≤ ones E.fsmax := by rw [ones]; omega
  have hone' : 1 ≤ ones E.esmax := by rw [ones]; omega
  unfold pattern at h
  split at h <;> cases h
  · obtain ⟨-, -, -, -, -, -, hc⟩ := zeroPattern_hasFields E
    exact hc
  · exact hrow le_rfl le_rfl
  · exact hrow le_rfl le_rfl
  · exact hrow le_rfl le_rfl
  · exact hrow le_rfl le_rfl
  · exact hrow le_rfl hmaxreal
  · exact hrow le_rfl hmaxreal
  · exact hrow (Nat.zero_le _) hone
  · exact hrow hone' (Nat.zero_le _)
  · exact hrow (Nat.zero_le _) le_rfl
  · exact hrow (Nat.zero_le _) (Nat.zero_le _)
  · exact hrow (Nat.zero_le _) (Nat.zero_le _)
  · exact hrow le_rfl hmaxreal
  · exact hrow le_rfl hmaxreal

theorem pattern_of_le {E : Env} {n : Nat} (h : n ≤ 13) : ∃ v, pattern E n = some v := by
  interval_cases n <;> exact ⟨_, rfl⟩

theorem pattern_of_gt {E : Env} {n : Nat} (h : 13 < n) : pattern E n = none := by
  obtain ⟨k, rfl⟩ := Nat.exists_eq_add_of_le' (Nat.succ_le_of_lt h)
  rfl

section
variable {s : State} (hv : s.env.v = true) {id : Imm}
include hv

theorem exec_ldc_of_none (h : pattern s.env id.toNat = none) (rd : UReg) :
    exec (.ldc rd id) s = .next (s.raise .field) := by
  rw [exec, execLdc, State.needEnv_of_env hv, h]

theorem exec_ldc_of_some {v : Unum} (h : pattern s.env id.toNat = some v) (rd : UReg) :
    exec (.ldc rd id) s = .next { s with u := s.u.set rd v } := by
  rw [exec, execLdc, State.needEnv_of_env hv, h]
  exact congrArg _ (State.writeU_of_canonical (pattern_canonical h) rd)

end

/-- Settles O24. The table has a row for the ids to 13; each row but that of 0 has the maximum tag, and its exponent
and fraction fit it. -/
theorem ldcLoadsTheDistinguishedPattern : Obligations.LdcLoadsTheDistinguishedPattern := by
  unfold Obligations.LdcLoadsTheDistinguishedPattern
  intro s rd id hv E es fs
  refine ⟨Laws.EncodeOpcode.ldc rd id, fun hid => exec_ldc_of_none hv (pattern_of_gt hid) rd, fun hid => ?rows⟩
  obtain ⟨u, hu⟩ := pattern_of_le (E := E) hid
  have hes : 1 < 2 ^ es := one_lt_two_pow_esmax E
  have hfs : 1 < 2 ^ fs := one_lt_two_pow_fsmax E
  have row {k : Imm} {s ub : Bool} {e f : Nat} (hk : pattern E k.toNat = some (mk E s e f ub E.esmax E.fsmax))
      (he : e < 2 ^ es) (hf : f < 2 ^ fs) (hid : id = k) : HasFields E u s e f ub es fs := by
    rw [hid, hk] at hu
    cases hu
    exact maxTag_hasFields E s ub he hf
  have hezero : 0 < 2 ^ es := by omega
  have hfzero : 0 < 2 ^ fs := by omega
  have heones : 2 ^ es - 1 < 2 ^ es := by omega
  have hfones : 2 ^ fs - 1 < 2 ^ fs := by omega
  have hfmaxreal : 2 ^ fs - 2 < 2 ^ fs := by omega
  refine ⟨u, exec_ldc_of_some hv hu rd, fun hid => ?zero, row rfl heones hfones, row rfl heones hfones,
    row rfl heones hfones, row rfl heones hfones, row rfl heones hfmaxreal, row rfl heones hfmaxreal,
    row rfl hezero hfs, row rfl hes hfzero, row rfl hezero hfones, row rfl hezero hfzero, row rfl hezero hfzero,
    row rfl heones hfmaxreal, row rfl heones hfmaxreal⟩
  rw [hid] at hu
  cases hu
  exact ⟨by simp [mk], zeroPattern_hasFields E⟩

/-! ### A store loaded back (40_env_move.md R105) -/

/-- Reading back a part of what a write of several bytes stored. -/
theorem Memory.readBytes_writeBytes_part {m : Memory} (h : Memory.wf m) (a : Nat) (xs ys zs : List Byte) :
    (m.writeBytes a (xs ++ ys ++ zs)).readBytes (a + xs.length) ys.length = ys := by
  refine List.ext_getElem? fun k => ?_
  by_cases hk : k < ys.length
  · have hbyte : (xs ++ ys ++ zs)[xs.length + k]? = some ys[k] := by
      rw [List.append_assoc, List.getElem?_append_right (by omega), List.getElem?_append_left (by omega)]
      simp [hk]
    rw [Memory.getElem?_readBytes _ _ _ _ hk, Nat.add_assoc, Memory.read_writeBytes_inside h a hbyte]
    simp [hk]
  · rw [List.getElem?_eq_none (by simpa using hk), List.getElem?_eq_none (by omega)]

theorem leNat_packU {E : Env} {u : Unum} (h : Canonical E u) : leNat (packU E u) = u := by
  have hbits : numbits E u ≤ 8 * nbytes E u := by rw [nbytes]; omega
  rw [packU, leNat_leBytes, Nat.mod_eq_of_lt (h.trans_le (Nat.pow_le_pow_right (by decide) hbits))]

/-- The packed bytes of a canonical unum load as that unum (20_memory.md R55, R56). -/
theorem State.unpackU_of_packed {s : State} {a : Nat} {u : Unum} (hc : Canonical s.env u)
    (hfits : a + nbytes s.env u ≤ s.cfg.bufsz) (hbytes : s.buf.readBytes a (nbytes s.env u) = packU s.env u) :
    s.unpackU a = .ok ⟨u, nbytes s.env u⟩ := by
  have htag := tagBytes_le_nbytes s.env u
  have hnb : numbits s.env (leNat (s.buf.readBytes a (tagBytes s.env))) = numbits s.env u := by
    rw [← numbits_leNat_readBytes htag, hbytes, leNat_packU hc]
  have hlen : nbytes s.env (leNat (s.buf.readBytes a (tagBytes s.env))) = nbytes s.env u := by
    rw [nbytes, hnb, nbytes]
  rw [State.unpackU_of_fits rfl (by omega) (by omega), hlen, hnb, hbytes, leNat_packU hc, slice_of_lt hc]

/-- The packed bytes of a canonical bound load as that bound (20_memory.md R57), its right unum 0 for a singleton. -/
theorem State.unpackB_of_packed {s : State} {m : Memory} {a : Nat} {b : Ubound} (hm : Memory.wf m)
    (hbuf : s.buf = m.writeBytes a (packB s.env b)) (hc : CanonicalBound s.env b)
    (hfits : a + (packB s.env b).length ≤ s.cfg.bufsz) (hsingle : b.p = false → b.r = 0) : s.unpackB a = .ok b := by
  have hflag : (s.buf.read a).toNat = b.p.toNat := by
    have hsmall : b.p.toNat < 2 ^ 8 := (Bool.toNat_le b.p).trans_lt (by decide)
    rw [hbuf]
    exact (Memory.toNat_read_writeBytes hm a (getElem?_packB_flag s.env b)).trans (Nat.mod_eq_of_lt hsmall)
  rw [length_packB] at hfits
  have hl : s.unpackU (a + 1) = .ok ⟨b.l, nbytes s.env b.l⟩ := by
    refine State.unpackU_of_packed hc.1 (by omega) ?_
    have hpart := Memory.readBytes_writeBytes_part hm a [BitVec.ofNat 8 b.p.toNat] (packU s.env b.l)
      (if b.p then packU s.env b.r else [])
    rw [length_packU] at hpart
    rw [hbuf, packB_eq]
    simpa using hpart
  cases hp : b.p with
  | false =>
    rw [hp] at hflag
    rw [State.unpackB_of_single (by omega) hflag hl, single, ← hsingle hp, ← hp]
  | true =>
    rw [hp] at hflag
    rw [nbytesRight, if_pos hp] at hfits
    have hr : s.unpackU (a + 1 + nbytes s.env b.l) = .ok ⟨b.r, nbytes s.env b.r⟩ := by
      refine State.unpackU_of_packed hc.2 (by omega) ?_
      have hpart := Memory.readBytes_writeBytes_part hm a (BitVec.ofNat 8 b.p.toNat :: packU s.env b.l)
        (packU s.env b.r) []
      rw [length_packU, List.length_cons, length_packU, Nat.add_comm (nbytes _ _), ← Nat.add_assoc] at hpart
      rw [hbuf, packB_eq, if_pos hp]
      simpa using hpart
    rw [State.unpackB_of_pair (by omega) hflag hl hr, ← hp]

/-- Settles O31. -/
theorem storeThenLoadReturnsTheOperand : Obligations.StoreThenLoadReturnsTheOperand := by
  unfold Obligations.StoreThenLoadReturnsTheOperand
  intro s hv hcanon hwf
  refine ⟨fun rd ra addr hfits => ⟨_, exec_stu_of_fits hv hfits, ?unum⟩,
    fun rd ra addr hfits hsingle => ⟨_, exec_stb_of_fits hv hfits, ?bound⟩⟩
  case unum =>
    have hbytes := Memory.readBytes_writeBytes hwf addr.toNat (packU s.env (s.readU ra))
    rw [length_packU] at hbytes
    exact exec_ldu_of_ok (s := { s with buf := s.buf.writeBytes addr.toNat (packU s.env (s.readU ra)) }) hv
      (State.unpackU_of_packed (hcanon.1 ra) hfits hbytes) rd
  case bound =>
    exact exec_ldb_of_ok (s := { s with buf := s.buf.writeBytes addr.toNat (packB s.env (s.readB ra)) }) hv
      (State.unpackB_of_packed hwf rfl (hcanon.2 ra) hfits hsingle) (hcanon.2 ra) rd

end Sys2Proof.Machine
end

section
/-! PROOF. ETAG, PROME and DEME (41_tag.md R129, R131, R133): one equation per arm of each command, and that promotion
is undone by demotion (R135); O33, O35, O37 and O39. -/

namespace Sys2Proof.Machine

/-! ### ETAG (41_tag.md R129) -/

theorem State.tagLegal_iff {s : State} :
    s.tagLegal = true ↔ 1 ≤ s.tag.fs.toNat ∧ s.tag.fs.toNat ≤ s.env.fsmax ∧ 1 ≤ s.tag.es.toNat ∧
      s.tag.es.toNat ≤ s.env.esmax ∧ s.fexp < 2 ^ s.tag.es.toNat ∧ s.ffrac < 2 ^ s.tag.fs.toNat := by
  simp [State.tagLegal, and_assoc]

/-- The unum TAG, FEXP and FFRAC hold. -/
def State.assembled (s : State) : Unum :=
  Machine.mk s.env s.tag.sg s.fexp s.ffrac s.tag.ub s.tag.es.toNat s.tag.fs.toNat

theorem State.assembled_hasFields {s : State} (h : s.tagLegal = true) :
    HasFields s.env s.assembled s.tag.sg s.fexp s.ffrac s.tag.ub s.tag.es.toNat s.tag.fs.toNat := by
  obtain ⟨hfs1, hfs, hes1, hes, he, hf⟩ := State.tagLegal_iff.1 h
  exact mk_hasFields s.env _ _ hfs1 hfs hes1 hes hf he

section
variable {s : State} (hv : s.env.v = true)
include hv

theorem exec_etag_of_legal (h : s.tagLegal = true) (rd : UReg) :
    exec (.etag rd) s = .next { s with
      u := s.u.set rd s.assembled,
      tag := { s.tag with nb := BitVec.ofNat 12 (numbits s.env s.assembled) } } := by
  obtain ⟨-, -, -, -, hes, hfs, hc⟩ := State.assembled_hasFields h
  rw [exec, execEtag, State.needEnv_of_env hv, if_pos h, ← State.assembled, State.writeU_of_canonical hc, numbits, hes,
    hfs]

theorem exec_etag_of_illegal (h : s.tagLegal = false) (rd : UReg) :
    exec (.etag rd) s = .next (s.raise .field) := by
  rw [exec, execEtag, State.needEnv_of_env hv, h, if_neg Bool.false_ne_true]

end

/-- What DTAG writes of a canonical unum is legal and holds that unum (41_tag.md R128, R129). -/
theorem State.assembled_of_dtag {s : State} (hwf : s.cfg.wf) (hcaps : s.envWithinCaps) {u : Unum}
    (hu : Canonical s.env u) :
    State.tagLegal { s with tag := tagOf s.env u, fexp := expoOf s.env u, ffrac := fracOf s.env u } = true ∧
      State.assembled { s with tag := tagOf s.env u, fexp := expoOf s.env u, ffrac := fracOf s.env u } = u := by
  obtain ⟨hfs, hes, -⟩ := State.sizes_fit_tag hwf hcaps u
  have hfs' : (tagOf s.env u).fs.toNat = fsOf s.env u := Nat.mod_eq_of_lt hfs
  have hes' : (tagOf s.env u).es.toNat = esOf s.env u := Nat.mod_eq_of_lt hes
  rw [State.tagLegal_iff, State.assembled]
  simp only [hfs', hes']
  exact ⟨⟨fsOf_pos _ u, fsOf_le _ u, esOf_pos _ u, esOf_le _ u, expoOf_lt _ u, fracOf_lt _ u⟩, mk_fields hu⟩

/-- Settles O33. -/
theorem etagAssemblesAndUndoesDtag : Obligations.EtagAssemblesAndUndoesDtag := by
  unfold Obligations.EtagAssemblesAndUndoesDtag
  intro s hv hwf hcaps legal
  have hlegal : legal ↔ s.tagLegal = true := State.tagLegal_iff.symm
  refine ⟨fun rd => ⟨Laws.EncodeOpcode.etag rd, fun h => ?legal, fun h => ?illegal⟩, fun hcanon rd ra => ?undo⟩
  case legal =>
    have hfields := State.assembled_hasFields (hlegal.1 h)
    refine ⟨s.assembled, _, exec_etag_of_legal hv (hlegal.1 h) rd, hfields, ?_⟩
    obtain ⟨-, -, hnb⟩ := State.sizes_fit_tag hwf hcaps s.assembled
    obtain ⟨-, -, -, -, hes, hfs, -⟩ := hfields
    rw [BitVec.toNat_ofNat, Nat.mod_eq_of_lt hnb, numbits, hes, hfs, Env.utagsize]
  case illegal => exact exec_etag_of_illegal hv (Bool.eq_false_iff.2 (mt hlegal.2 h)) rd
  case undo =>
    obtain ⟨hl, hu⟩ := State.assembled_of_dtag hwf hcaps (hcanon.1 ra)
    refine ⟨_, exec_dtag hv ra, ?_⟩
    rw [exec_etag_of_legal (s := { s with
      tag := tagOf s.env (s.readU ra), fexp := expoOf s.env (s.readU ra), ffrac := fracOf s.env (s.readU ra) }) hv hl, hu]
    rfl

/-! ### PROME (41_tag.md R131) -/

section
variable {s : State} (hv : s.env.v = true) {ra : UReg}
include hv

theorem exec_prome_of_inexact (hub : ubitOf s.env (s.readU ra) = true) (rd : UReg) :
    exec (.prome rd ra) s = .next (s.raise .operand) := by
  rw [exec, execProme, State.needEnv_of_env hv, if_pos hub]

theorem exec_prome_of_exact (hcanon : s.allCanonical) (hub : ubitOf s.env (s.readU ra) = false) (rd : UReg) :
    exec (.prome rd ra) s = .next { s with
      u := s.u.set rd (prome s.env (s.readU ra)),
      status := { s.status with lim := esOf s.env (s.readU ra) == s.env.esmax } } := by
  have hprome := (prome_keepsNumber (hcanon.1 ra) hub).canonical
  simp [exec, execProme, State.needEnv_of_env hv, hub, State.writeU_of_canonical hprome, State.setLim]

end

section
variable {e f es fs : Nat}

theorem promePayload_normal (he : e ≠ 0) (f es fs : Nat) : promePayload e f es fs = (e + 2 ^ (es - 1), f) := if_pos he

theorem promePayload_zero (es fs : Nat) : promePayload 0 0 es fs = (0, 0) := rfl

theorem promePayload_rising (hf : f ≠ 0) (hk : fs ≤ f.log2 + 2 ^ (es - 1)) :
    promePayload 0 f es fs = (1 + f.log2 + 2 ^ (es - 1) - fs, (f - 2 ^ f.log2) * 2 ^ (fs - f.log2)) := by
  simp [promePayload, hf, hk]

theorem promePayload_subnormal (hf : f ≠ 0) (hk : f.log2 + 2 ^ (es - 1) < fs) :
    promePayload 0 f es fs = (0, f * 2 ^ 2 ^ (es - 1)) := by
  simp [promePayload, hf, Nat.not_le.2 hk]

end

/-- Settles O35. At the maximum exponent size `prome` is the identity; below it the arms of the payload are those of
the rule. -/
theorem promeWidensTheExponent : Obligations.PromeWidensTheExponent := by
  unfold Obligations.PromeWidensTheExponent
  intro s rd ra hv hcanon E u e f fs D k
  refine ⟨Laws.EncodeOpcode.prome rd ra, fun hub => exec_prome_of_inexact hv hub rd, fun hub hmax => ?stays,
    fun hub hes => ?widens⟩
  case stays =>
    have hlim : (esOf E u == E.esmax) = true := beq_iff_eq.2 hmax
    rw [exec_prome_of_exact hv hcanon hub, prome_of_max hmax, hlim]
  case widens =>
    have hlim : (esOf E u == E.esmax) = false := beq_eq_false_iff_ne.2 hes
    have hfields {p : Nat × Nat} (hp : promePayload e f (esOf E u) fs = p) :
        HasFields E (prome E u) (signOf E u) p.1 p.2 false (esOf E u + 1) fs := hp ▸ prome_hasFields hes
    exact ⟨prome E u, by rw [exec_prome_of_exact hv hcanon hub, hlim], fun he => hfields (promePayload_normal he ..),
      fun he hf => hfields (by rw [he, hf, promePayload_zero]),
      fun he hf hk => hfields (by rw [he, promePayload_rising hf hk]),
      fun he hf hk => hfields (by rw [he, promePayload_subnormal hf hk])⟩

/-! ### DEME (41_tag.md R133) -/

theorem demeStays_iff {E : Env} {u : Unum} : demeStays E u = true ↔ esOf E u = 1 ∨ isSpecial E u = true := by
  simp [demeStays]

theorem demeStays_eq_false_iff {E : Env} {u : Unum} :
    demeStays E u = false ↔ esOf E u ≠ 1 ∧ isSpecial E u = false := by
  simp [demeStays]

section
variable (f es fs : Nat)

theorem demePayload_zero :
    demePayload 0 f es fs = ⟨0, f / 2 ^ 2 ^ (es - 2), decide (f % 2 ^ 2 ^ (es - 2) ≠ 0)⟩ := by
  simp [demePayload, bne, beq_eq_decide]

variable {e : Nat}

theorem demePayload_sinking (h1 : 1 ≤ e) (h2 : e ≤ 2 ^ (es - 2)) :
    demePayload e f es fs =
      ⟨0, (2 ^ fs + f) / 2 ^ (2 ^ (es - 2) - e + 1), decide ((2 ^ fs + f) % 2 ^ (2 ^ (es - 2) - e + 1) ≠ 0)⟩ := by
  have h0 : e ≠ 0 := by omega
  simp [demePayload, h0, h2, bne, beq_eq_decide]

theorem demePayload_normal (h1 : 2 ^ (es - 2) < e) (h2 : e < 3 * 2 ^ (es - 2)) :
    demePayload e f es fs = ⟨e - 2 ^ (es - 2), f, false⟩ := by
  have h0 : e ≠ 0 := by omega
  simp [demePayload, h0, h1, h2]

theorem demePayload_saturating (h : 3 * 2 ^ (es - 2) ≤ e) :
    demePayload e f es fs = ⟨2 ^ (es - 1) - 1, 2 ^ fs - 1, true⟩ := by
  have hpos := Nat.two_pow_pos (es - 2)
  have h0 : e ≠ 0 := by omega
  have h1 : ¬ e ≤ 2 ^ (es - 2) := by omega
  simp [demePayload, h0, h1, h]

end

section
variable {s : State} (hv : s.env.v = true) {ra : UReg}
include hv

theorem exec_deme_of_stays (hcanon : s.allCanonical) (h : demeStays s.env (s.readU ra) = true) (rd : UReg) :
    exec (.deme rd ra) s = .next { s with
      u := s.u.set rd (s.readU ra), status := { s.status with lim := true, inex := false } } := by
  have hsame : deme s.env (s.readU ra) = s.readU ra := if_pos h
  simp [exec, execDeme, State.needEnv_of_env hv, hsame, State.writeU_of_canonical (hcanon.1 ra), h, State.setLim,
    State.setInex]

theorem exec_deme_of_narrows (h : demeStays s.env (s.readU ra) = false) (rd : UReg) :
    exec (.deme rd ra) s = .next { s with
      u := s.u.set rd (deme s.env (s.readU ra)),
      status := { s.status with lim := false, inex := (demeOf s.env (s.readU ra)).lost } } := by
  obtain ⟨-, -, -, -, -, -, hdeme⟩ := deme_hasFields h
  simp [exec, execDeme, State.needEnv_of_env hv, State.writeU_of_canonical hdeme, h, State.setLim, State.setInex]

end

/-- Settles O37. Where DEME narrows, its payload is that of the arm the exponent selects. -/
theorem demeNarrowsTheExponent : Obligations.DemeNarrowsTheExponent := by
  unfold Obligations.DemeNarrowsTheExponent
  intro s rd ra hv hcanon E u e f fs Q F
  refine ⟨Laws.EncodeOpcode.deme rd ra, fun h => exec_deme_of_stays hv hcanon (demeStays_iff.2 h) rd,
    fun hes hsp => ?narrows⟩
  case narrows =>
    intro gives
    have hnarrows : demeStays E u = false := demeStays_eq_false_iff.2 ⟨hes, hsp⟩
    have arm {p : Demoted} (hp : demePayload e f (esOf E u) fs = p) : gives p.e p.f p.lost := by
      have hp' : demeOf E u = p := hp
      subst hp'
      exact ⟨deme E u, exec_deme_of_narrows hv hnarrows rd, deme_hasFields hnarrows⟩
    exact ⟨fun he => arm (by rw [he, demePayload_zero]), fun h1 h2 => arm (demePayload_sinking _ _ _ h1 h2),
      fun h1 h2 => arm (demePayload_normal _ _ _ h1 h2), fun h => arm (demePayload_saturating _ _ _ h)⟩

/-! ### Promotion undone by demotion (41_tag.md R135) -/

section
variable {e f es fs : Nat}

/-- Demoting the exponent of a promoted payload gives the payload back, and loses nothing: the demotion's `Q` is the
promotion's `D`. -/
theorem demePayload_promePayload (hes : 1 ≤ es) (he : e < 2 ^ es) (hf : f < 2 ^ fs) :
    demePayload (promePayload e f es fs).1 (promePayload e f es fs).2 (es + 1) fs = ⟨e, f, false⟩ := by
  have hQ : es + 1 - 2 = es - 1 := by omega
  have hD := Nat.two_pow_pos (es - 1)
  have hpow := Nat.two_pow_pred_mul_two hes
  obtain ⟨he0, h⟩ | ⟨rfl, rfl, h⟩ | ⟨rfl, hf0, hk, h⟩ | ⟨rfl, hf0, -, h⟩ := promePayload_cases e f es fs <;> rw [h]
  · rw [demePayload_normal _ _ _ (by rw [hQ]; omega) (by rw [hQ]; omega), hQ, Nat.add_sub_cancel]
  · rw [demePayload_zero, Nat.zero_div, Nat.zero_mod]
    rfl
  · have hlog : f.log2 < fs := (Nat.log2_lt hf0).2 hf
    have hshift : 2 ^ (es - 1) - (1 + f.log2 + 2 ^ (es - 1) - fs) + 1 = fs - f.log2 := by omega
    rw [demePayload_sinking _ _ _ (by omega) (by rw [hQ]; omega), hQ, hshift, hidden_add_moved_frac hf0 hf,
      Nat.mul_div_cancel _ (Nat.two_pow_pos _), Nat.mul_mod_left]
    rfl
  · rw [demePayload_zero, hQ, Nat.mul_div_cancel _ (Nat.two_pow_pos _), Nat.mul_mod_left]
    rfl

end

section
variable {E : Env} {u : Unum} (hc : Canonical E u) (hub : ubitOf E u = false)
include hc hub

theorem deme_prome (h : esOf E u < E.esmax) : deme E (prome E u) = u := by
  obtain ⟨hsign, hexpo, hfrac, hubit, hes, hfs, -⟩ := prome_hasFields h.ne
  have hpos := esOf_pos E u
  have hnarrows : demeStays E (prome E u) = false := by
    refine demeStays_eq_false_iff.2 ⟨by omega, isSpecial_eq_false_of_expo ?_⟩
    rw [hexpo, hes]
    exact (promePayload_expo_lt (fracOf_lt E u) hpos (expoOf_lt E u)).ne
  have hpayload : demeOf E (prome E u) = ⟨expoOf E u, fracOf E u, false⟩ := by
    rw [demeOf, hexpo, hfrac, hes, hfs]
    exact demePayload_promePayload hpos (expoOf_lt E u) (fracOf_lt E u)
  have hfields := deme_hasFields hnarrows
  rw [hpayload, hsign, hubit, hes, hfs] at hfields
  exact hasFields_unique hfields ⟨rfl, rfl, rfl, hub, rfl, rfl, hc⟩

theorem demf_promf (h : fsOf E u < E.fsmax) : demf E (promf E u) = u := by
  obtain ⟨hsign, hexpo, hfrac, hubit, hes, hfs, -⟩ := promf_hasFields h.ne
  have hpos := fsOf_pos E u
  have hsp : isSpecial E (promf E u) = false := isSpecial_eq_false_of_even_frac ⟨_, hfrac⟩
  have hnarrows : demfStays E (promf E u) = false := by
    rw [Bool.eq_false_iff, Ne, demfStays_iff, hsp]
    exact not_or.2 ⟨by omega, Bool.false_ne_true⟩
  have hlost : demfLost E (promf E u) = false := by simp [demfLost, hfrac]
  have hfields := demf_hasFields hnarrows
  rw [hsign, hexpo, hfrac, hubit, hlost, hes, hfs, Nat.mul_div_cancel_left _ (by decide)] at hfields
  exact hasFields_unique hfields ⟨rfl, rfl, rfl, hub, rfl, rfl, hc⟩

end

/-- Settles O39. -/
theorem promotionKeepsTheValueAndIsUndone : Obligations.PromotionKeepsTheValueAndIsUndone := by
  unfold Obligations.PromotionKeepsTheValueAndIsUndone
  intro E u hc hub
  have hpromf := promf_keepsNumber hc hub
  have hprome := prome_keepsNumber hc hub
  exact ⟨hpromf.value, hpromf.ubit, hprome.value, hprome.ubit, deme_prome hc hub, demf_promf hc hub⟩

end Sys2Proof.Machine
end

section
/-! PROOF. Intervals as sets (43_compare_select.md R181 to R196): an element is ranked between the two sides, so that an
interval holds what lies between the ranks of its ends; O52, O54 and O55. -/

namespace Sys2Proof.Machine

/-! ### The rank of an element -/

/-- An element stands where a closed end of its value does (43_compare_select.md R182). -/
def atNum (x : ExtNum) : ExtNum ×ₗ Nat := toLex (x, 1)

theorem atNum_le_atNum {x y : ExtNum} : atNum x ≤ atNum y ↔ x ≤ y := by
  rw [atNum, atNum, Prod.Lex.toLex_le_toLex]
  constructor
  · rintro (h | ⟨rfl, -⟩)
    · exact h.le
    · exact le_rfl
  · intro h
    obtain h | rfl := h.lt_or_eq
    · exact .inl h
    · exact .inr ⟨rfl, le_rfl⟩

theorem atNum_lt_atNum {x y : ExtNum} : atNum x < atNum y ↔ x < y := by
  rw [← not_le, atNum_le_atNum, not_le]

theorem left_rank_le_atNum {p : Gnum} {x : ExtNum} :
    p.rank .left ≤ atNum x ↔ if p.opn then p.toNum < x else p.toNum ≤ x := by
  rw [Gnum.rank, atNum, Prod.Lex.toLex_le_toLex]
  cases p.opn <;> simp [Side.pos, le_iff_lt_or_eq]

theorem atNum_le_right_rank {p : Gnum} {x : ExtNum} :
    atNum x ≤ p.rank .right ↔ if p.opn then x < p.toNum else x ≤ p.toNum := by
  rw [Gnum.rank, atNum, Prod.Lex.toLex_le_toLex]
  cases p.opn <;> simp [Side.pos, le_iff_lt_or_eq]

/-- The elements of an interval are those ranked between its ends. -/
theorem Gbnd.holds_iff {g : Gbnd} (h : g.nan = false) {x : ExtNum} :
    g.Holds x ↔ g.l.rank .left ≤ atNum x ∧ atNum x ≤ g.r.rank .right := by
  rw [Gbnd.Holds, left_rank_le_atNum, atNum_le_right_rank]
  exact and_iff_right h

/-! ### The predicates as comparisons of ranks -/

theorem illformed_iff {g : Gbnd} : illformed g = true ↔ g.r.rank .right < g.l.rank .left := by
  rw [illformed, beq_iff_eq, cmpE_eq_compare_rank, compare_lt_iff_lt]

theorem illformed_eq_false_iff {g : Gbnd} : illformed g = false ↔ g.l.rank .left ≤ g.r.rank .right := by
  rw [Bool.eq_false_iff, Ne, illformed_iff, not_lt]

theorem below_iff {a b : Gbnd} : below a b = true ↔ a.r.rank .right < b.l.rank .left := by
  rw [below, beq_iff_eq, cmpE_eq_compare_rank, compare_lt_iff_lt]

theorem encloses_iff {a b : Gbnd} :
    encloses a b = true ↔ a.l.rank .left ≤ b.l.rank .left ∧ b.r.rank .right ≤ a.r.rank .right := by
  rw [encloses, Bool.and_eq_true, bne_iff_ne, bne_iff_ne, cmpE_eq_compare_rank, cmpE_eq_compare_rank,
    compare_le_iff_le, compare_ge_iff_ge]

theorem rank_eq_iff {p q : Gnum} (sd : Side) : p.rank sd = q.rank sd ↔ p.toNum = q.toNum ∧ p.opn = q.opn := by
  rw [← cmpE_eq_eq_iff p q sd, cmpE_eq_compare_rank, compare_eq_iff_eq]

theorem identical_iff {a b : Gbnd} :
    identical a b = true ↔
      a.nan = false ∧ b.nan = false ∧ a.l.rank .left = b.l.rank .left ∧ a.r.rank .right = b.r.rank .right := by
  rw [rank_eq_iff, rank_eq_iff, identical_eq]
  simp only [cmpV_eq_compare_toNum, compare_eq_iff_eq, Bool.and_eq_true, Bool.not_eq_true', decide_eq_true_eq]
  tauto

/-! ### Between two ends -/

/-- Ends in order have an element between them: the order of the extended numbers is dense. -/
theorem exists_atNum_between {a b : ExtNum} {i j : Nat} (hi : i = 1 ∨ i = 2) (hj : j = 0 ∨ j = 1)
    (h : toLex (a, i) ≤ toLex (b, j)) : ∃ x, toLex (a, i) ≤ atNum x ∧ atNum x ≤ toLex (b, j) := by
  simp only [atNum, Prod.Lex.toLex_le_toLex] at h ⊢
  obtain h | ⟨rfl, hij⟩ := h
  · obtain ⟨x, hax, hxb⟩ := exists_between h
    exact ⟨x, .inl hax, .inl hxb⟩
  · exact ⟨a, .inr ⟨rfl, by omega⟩, .inr ⟨rfl, by omega⟩⟩

theorem left_pos (o : Bool) : Side.left.pos o = 1 ∨ Side.left.pos o = 2 := by
  cases o <;> decide

theorem right_pos (o : Bool) : Side.right.pos o = 0 ∨ Side.right.pos o = 1 := by
  cases o <;> decide

section
variable {g : Gbnd} (h : g.Proper)
include h

theorem Gbnd.Proper.ends_le : g.l.rank .left ≤ g.r.rank .right := illformed_eq_false_iff.1 h.2

theorem Gbnd.Proper.holds_iff {x : ExtNum} :
    g.Holds x ↔ g.l.rank .left ≤ atNum x ∧ atNum x ≤ g.r.rank .right := Gbnd.holds_iff h.1

/-- A well-formed interval that starts below a left end has an element below that end. -/
theorem Gbnd.Proper.exists_holds_lt {p : Gnum} (hp : g.l.rank .left < p.rank .left) :
    ∃ x, g.Holds x ∧ atNum x < p.rank .left := by
  have hends := h.ends_le
  simp only [h.holds_iff]
  obtain hr | hr := lt_or_ge (g.r.rank .right) (p.rank .left)
  · obtain ⟨x, hl, hx⟩ := exists_atNum_between (left_pos _) (right_pos _) hends
    exact ⟨x, ⟨hl, hx⟩, hx.trans_lt hr⟩
  · have hpos : p.rank .left = toLex (p.toNum, (Side.left.pos p.opn - 1) + 1) := by
      rw [Gnum.rank, Nat.sub_add_cancel]
      have := left_pos p.opn
      omega
    have hbefore (k : ExtNum ×ₗ Nat) : k < p.rank .left ↔ k ≤ toLex (p.toNum, Side.left.pos p.opn - 1) := by
      rw [hpos, Prod.Lex.lt_iff, Prod.Lex.le_iff]
      simp
    have hj : Side.left.pos p.opn - 1 = 0 ∨ Side.left.pos p.opn - 1 = 1 := by
      have := left_pos p.opn
      omega
    obtain ⟨x, hl, hx⟩ := exists_atNum_between (left_pos _) hj ((hbefore _).1 hp)
    have hlt := (hbefore _).2 hx
    exact ⟨x, ⟨hl, (hlt.trans_le hr).le⟩, hlt⟩

end

/-! ### Negation (43_compare_select.md R195) -/

/-- The mirror image of an extended number. -/
def mirror : ExtNum → ExtNum
  | none => ((⊤ : WithTop ℚ) : ExtNum)
  | some none => ⊥
  | some (some x) => (((-x : ℚ) : WithTop ℚ) : ExtNum)

theorem mirror_bot : mirror ⊥ = ((⊤ : WithTop ℚ) : ExtNum) := rfl

theorem mirror_top : mirror ((⊤ : WithTop ℚ) : ExtNum) = ⊥ := rfl

theorem mirror_rat (x : ℚ) : mirror ((x : WithTop ℚ) : ExtNum) = (((-x : ℚ) : WithTop ℚ) : ExtNum) := rfl

theorem mirror_mirror : ∀ x, mirror (mirror x) = x
  | none => rfl
  | some none => rfl
  | some (some x) => by
    change ((((-(-x) : ℚ) : WithTop ℚ)) : ExtNum) = _
    rw [neg_neg]
    rfl

theorem mirror_le_mirror_of_le : ∀ {x y : ExtNum}, x ≤ y → mirror y ≤ mirror x
  | none, _, _ => OrderTop.le_top _
  | some _, none, h => absurd h (WithBot.not_coe_le_bot _)
  | some _, some none, _ => bot_le
  | some none, some (some y), h => absurd (WithBot.coe_le_coe.1 h) (WithTop.not_top_le_coe y)
  | some (some x), some (some y), h => by
    have hxy : x ≤ y := coe_rat_strictMono.le_iff_le.1 h
    exact coe_rat_strictMono.le_iff_le.2 (neg_le_neg hxy)

theorem mirror_le_mirror {x y : ExtNum} : mirror x ≤ mirror y ↔ y ≤ x :=
  ⟨fun h => by simpa only [mirror_mirror] using mirror_le_mirror_of_le h, mirror_le_mirror_of_le⟩

theorem mirror_lt_mirror {x y : ExtNum} : mirror x < mirror y ↔ y < x := by
  rw [← not_le, mirror_le_mirror, not_le]

theorem Dyad.toRat_neg (x : Dyad) : x.neg.toRat = -x.toRat := by
  cases h : x.sg <;> simp [Dyad.toRat, Dyad.neg, h]

theorem Gnum.toNum_of_finite {p : Gnum} (h : p.inf = false) : p.toNum = ((p.val.toRat : WithTop ℚ) : ExtNum) := by
  rw [Gnum.toNum_eq, h, if_neg Bool.false_ne_true]

theorem fin_toNum (x : Dyad) (o : Bool) : (fin x o).toNum = ((x.toRat : WithTop ℚ) : ExtNum) := by
  rw [Gnum.toNum_of_finite rfl, fin, Dyad.toRat_norm]

theorem pinf_toNum (o : Bool) : (pinf o).toNum = ((⊤ : WithTop ℚ) : ExtNum) := rfl

theorem ninf_toNum (o : Bool) : (ninf o).toNum = ⊥ := rfl

/-- An infinite endpoint with value 0 or above is +∞, one below −∞ (10_state.md R27). -/
theorem Gnum.toNum_of_inf {p : Gnum} (h : p.inf = true) :
    p.toNum = if p.val.isNeg then ⊥ else ((⊤ : WithTop ℚ) : ExtNum) := by
  cases hneg : p.val.isNeg <;> simp [Gnum.toNum, Gnum.ext, h, hneg, Ext.toNum]

theorem Gnum.toNum_neg (p : Gnum) : p.neg.toNum = mirror p.toNum := by
  cases hinf : p.inf
  · rw [Gnum.toNum_of_finite hinf, mirror_rat, ← Dyad.toRat_neg, Gnum.neg, hinf, if_neg Bool.false_ne_true, fin_toNum]
  · rw [Gnum.toNum_of_inf hinf, Gnum.neg, hinf, if_pos rfl]
    cases p.val.isNeg <;> rfl

theorem Gnum.opn_neg (p : Gnum) : p.neg.opn = p.opn := by
  unfold Gnum.neg
  split
  · split <;> rfl
  · rfl

/-- The other end of an interval. -/
def Side.other : Side → Side
  | .left => .right
  | .right => .left

theorem Side.pos_other (sd : Side) (o : Bool) : sd.other.pos o = 2 - sd.pos o := by
  cases sd <;> cases o <;> rfl

theorem Side.pos_le (sd : Side) (o : Bool) : sd.pos o ≤ 2 := by
  cases sd <;> cases o <;> decide

/-- Negation turns the order of ranks round, each end standing on the other side. -/
theorem neg_rank_le_neg_rank (p q : Gnum) (sp sq : Side) :
    p.neg.rank sp.other ≤ q.neg.rank sq.other ↔ q.rank sq ≤ p.rank sp := by
  have hp := sp.pos_le p.opn
  have hq := sq.pos_le q.opn
  simp only [Gnum.rank, Prod.Lex.toLex_le_toLex, Gnum.toNum_neg, Gnum.opn_neg, Side.pos_other, mirror_lt_mirror]
  have heq : mirror p.toNum = mirror q.toNum ↔ q.toNum = p.toNum :=
    ⟨fun h => by rw [← mirror_mirror q.toNum, ← h, mirror_mirror], fun h => by rw [h]⟩
  rw [heq]
  refine or_congr_right (and_congr_right fun _ => ?_)
  omega

theorem negg_of_number {g : Gbnd} (h : g.nan = false) : negg g = ⟨false, g.r.neg, g.l.neg⟩ := by
  simp [negg, h]

theorem negg_nan (g : Gbnd) : (negg g).nan = g.nan := by
  cases h : g.nan <;> simp [negg, h, nanG]

/-- Negation mirrors the elements of an interval (43_compare_select.md R196 (b)). -/
theorem negg_holds {g : Gbnd} (h : g.nan = false) (x : ExtNum) : (negg g).Holds x ↔ g.Holds (mirror x) := by
  have hl {a : ExtNum} : mirror a < x ↔ mirror x < a := by
    rw [← mirror_lt_mirror, mirror_mirror]
  have hr {a : ExtNum} : x < mirror a ↔ a < mirror x := by
    rw [← mirror_lt_mirror, mirror_mirror]
  have hl' {a : ExtNum} : mirror a ≤ x ↔ mirror x ≤ a := by
    rw [← mirror_le_mirror, mirror_mirror]
  have hr' {a : ExtNum} : x ≤ mirror a ↔ a ≤ mirror x := by
    rw [← mirror_le_mirror, mirror_mirror]
  rw [negg_of_number h]
  simp only [Gbnd.Holds, h, Gnum.toNum_neg, Gnum.opn_neg, hl, hr, hl', hr', true_and]
  exact and_comm

theorem illformed_negg {g : Gbnd} (h : g.nan = false) : illformed (negg g) = illformed g := by
  rw [Bool.eq_iff_iff, illformed_iff, illformed_iff, negg_of_number h, ← not_le, ← not_le]
  exact not_congr (neg_rank_le_neg_rank g.r g.l .right .left)

theorem encloses_negg {a b : Gbnd} (ha : a.nan = false) (hb : b.nan = false) :
    encloses (negg a) (negg b) = encloses a b := by
  rw [Bool.eq_iff_iff, encloses_iff, encloses_iff, negg_of_number ha, negg_of_number hb, and_comm]
  exact and_congr (neg_rank_le_neg_rank b.l a.l .left .left) (neg_rank_le_neg_rank a.r b.r .right .right)

theorem Gbnd.Proper.negg {g : Gbnd} (h : g.Proper) : (Machine.negg g).Proper :=
  ⟨(negg_nan g).trans h.1, (illformed_negg h.1).trans h.2⟩

/-- Twice negated, an interval is the one it was (43_compare_select.md R196 (b)). -/
theorem identical_negg_negg {g : Gbnd} (h : g.nan = false) : identical (negg (negg g)) g = true := by
  have hneg : (negg g).nan = false := (negg_nan g).trans h
  rw [identical_iff, rank_eq_iff, rank_eq_iff, negg_of_number hneg, negg_of_number h]
  simp only [Gnum.toNum_neg, Gnum.opn_neg, mirror_mirror, h, and_self]

/-- A well-formed interval that ends above a right end has an element above that end. -/
theorem Gbnd.Proper.exists_holds_gt {g : Gbnd} (h : g.Proper) {p : Gnum} (hp : p.rank .right < g.r.rank .right) :
    ∃ x, g.Holds x ∧ p.rank .right < atNum x := by
  have hmirrored : (Machine.negg g).l.rank .left < p.neg.rank .left := by
    rw [negg_of_number h.1, ← not_le]
    exact (not_congr (neg_rank_le_neg_rank p g.r .right .right)).2 (not_le.2 hp)
  obtain ⟨x, hx, hlt⟩ := h.negg.exists_holds_lt hmirrored
  refine ⟨mirror x, (negg_holds h.1 x).1 hx, ?_⟩
  rw [← not_le, left_rank_le_atNum, Gnum.toNum_neg, Gnum.opn_neg] at hlt
  rw [← not_le, atNum_le_right_rank, ← mirror_le_mirror, ← mirror_lt_mirror, mirror_mirror]
  exact hlt

/-! ### What the predicates say of the sets -/

theorem Gbnd.Proper.exists_holds {g : Gbnd} (h : g.Proper) : ∃ x, g.Holds x := by
  simp only [h.holds_iff]
  exact exists_atNum_between (left_pos _) (right_pos _) h.ends_le

theorem illformed_iff_empty {g : Gbnd} (h : g.nan = false) : illformed g = true ↔ ∀ x, ¬ g.Holds x := by
  refine ⟨fun hill x hx => ?_, fun hempty => ?_⟩
  · obtain ⟨hl, hr⟩ := (Gbnd.holds_iff h).1 hx
    exact (illformed_iff.1 hill).not_ge (hl.trans hr)
  · by_contra hwell
    obtain ⟨x, hx⟩ := Gbnd.Proper.exists_holds ⟨h, Bool.eq_false_iff.2 hwell⟩
    exact hempty x hx

/-- Enclosing is containing the elements; a bound's elements are those of what it encloses, too. -/
theorem Gbnd.Holds.of_encloses {a b : Gbnd} (ha : a.nan = false) (hb : b.nan = false) (h : encloses a b = true)
    {x : ExtNum} (hx : b.Holds x) : a.Holds x := by
  obtain ⟨hl, hr⟩ := encloses_iff.1 h
  obtain ⟨hlx, hxr⟩ := (Gbnd.holds_iff hb).1 hx
  exact (Gbnd.holds_iff ha).2 ⟨hl.trans hlx, hxr.trans hr⟩

section
variable {a b : Gbnd} (ha : a.Proper) (hb : b.Proper)
include ha hb

theorem encloses_iff_subset : encloses a b = true ↔ ∀ x, b.Holds x → a.Holds x := by
  refine ⟨fun h x => Gbnd.Holds.of_encloses ha.1 hb.1 h, fun hsub => encloses_iff.2 ⟨?_, ?_⟩⟩
  · by_contra hlt
    obtain ⟨x, hx, hxa⟩ := hb.exists_holds_lt (not_le.1 hlt)
    exact hxa.not_ge (ha.holds_iff.1 (hsub x hx)).1
  · by_contra hgt
    obtain ⟨x, hx, hxa⟩ := hb.exists_holds_gt (not_le.1 hgt)
    exact hxa.not_ge (ha.holds_iff.1 (hsub x hx)).2

/-- Two well-formed intervals share an element, or one lies below the other. -/
theorem exists_common_of_not_below (hab : ¬ a.r.rank .right < b.l.rank .left)
    (hba : ¬ b.r.rank .right < a.l.rank .left) :
    ∃ x, a.Holds x ∧ b.Holds x := by
  have haa := ha.ends_le
  have hbb := hb.ends_le
  simp only [ha.holds_iff, hb.holds_iff]
  rw [not_lt] at hab hba
  obtain hl | hl := le_total (a.l.rank .left) (b.l.rank .left)
  · obtain hr | hr := le_total (a.r.rank .right) (b.r.rank .right)
    · obtain ⟨x, hx, hx'⟩ := exists_atNum_between (left_pos _) (right_pos _) hab
      exact ⟨x, ⟨hl.trans hx, hx'⟩, hx, hx'.trans hr⟩
    · obtain ⟨x, hx, hx'⟩ := exists_atNum_between (left_pos _) (right_pos _) hbb
      exact ⟨x, ⟨hl.trans hx, hx'.trans hr⟩, hx, hx'⟩
  · obtain hr | hr := le_total (a.r.rank .right) (b.r.rank .right)
    · obtain ⟨x, hx, hx'⟩ := exists_atNum_between (left_pos _) (right_pos _) haa
      exact ⟨x, ⟨hx, hx'⟩, hl.trans hx, hx'.trans hr⟩
    · obtain ⟨x, hx, hx'⟩ := exists_atNum_between (left_pos _) (right_pos _) hba
      exact ⟨x, ⟨hx, hx'.trans hr⟩, hl.trans hx, hx'⟩

/-- One interval lies below another exactly when each of its elements is less than each of the other's. -/
theorem right_rank_lt_left_rank_iff :
    a.r.rank .right < b.l.rank .left ↔ ∀ x y, a.Holds x → b.Holds y → x < y := by
  refine ⟨fun h x y hx hy => ?_, fun h => ?_⟩
  · exact atNum_lt_atNum.1 (((ha.holds_iff.1 hx).2.trans_lt h).trans_le (hb.holds_iff.1 hy).1)
  · by_contra hab
    obtain ⟨x, hx⟩ := ha.exists_holds
    obtain ⟨y, hy⟩ := hb.exists_holds
    by_cases hba : b.r.rank .right < a.l.rank .left
    · exact (h x y hx hy).not_gt
        (atNum_lt_atNum.1 (((hb.holds_iff.1 hy).2.trans_lt hba).trans_le (ha.holds_iff.1 hx).1))
    · obtain ⟨z, hza, hzb⟩ := exists_common_of_not_below ha hb hab hba
      exact lt_irrefl z (h z z hza hzb)

theorem not_common_iff :
    (a.r.rank .right < b.l.rank .left ∨ b.r.rank .right < a.l.rank .left) ↔ ∀ x, ¬ (a.Holds x ∧ b.Holds x) := by
  refine ⟨?_, fun h => ?_⟩
  · rintro (hab | hba) x ⟨hx, hx'⟩
    · exact lt_irrefl x ((right_rank_lt_left_rank_iff ha hb).1 hab x x hx hx')
    · exact lt_irrefl x ((right_rank_lt_left_rank_iff hb ha).1 hba x x hx' hx)
  · by_contra hor
    obtain ⟨hab, hba⟩ := not_or.1 hor
    obtain ⟨x, hx⟩ := exists_common_of_not_below ha hb hab hba
    exact h x hx

theorem bothNumbers_of_proper : bothNumbers a b = true := by
  simp [bothNumbers, ha.1, hb.1]

theorem tLess_iff : tLess a b = true ↔ a.r.rank .right < b.l.rank .left := by
  rw [tLess, bothNumbers_of_proper ha hb, Bool.true_and, below_iff]

theorem tGreater_iff : tGreater a b = true ↔ b.r.rank .right < a.l.rank .left := by
  rw [tGreater, bothNumbers_of_proper ha hb, Bool.true_and, beq_iff_eq, cmpE_eq_compare_rank, compare_gt_iff_gt]

theorem tNowhereEqual_iff :
    tNowhereEqual a b = true ↔ a.r.rank .right < b.l.rank .left ∨ b.r.rank .right < a.l.rank .left := by
  rw [tNowhereEqual, bothNumbers_of_proper ha hb, Bool.true_and, Bool.or_eq_true, below_iff, beq_iff_eq,
    cmpE_eq_compare_rank, compare_gt_iff_gt]

theorem tSomewhereEqual_eq_not : tSomewhereEqual a b = !tNowhereEqual a b := by
  rw [tSomewhereEqual, tNowhereEqual, bothNumbers_of_proper ha hb, Bool.true_and, Bool.true_and]

theorem identical_iff_same : identical a b = true ↔ ∀ x, a.Holds x ↔ b.Holds x := by
  rw [identical_iff]
  refine ⟨fun ⟨_, _, hl, hr⟩ x => by rw [ha.holds_iff, hb.holds_iff, hl, hr], fun h => ?_⟩
  obtain ⟨hl, hr⟩ := encloses_iff.1 ((encloses_iff_subset ha hb).2 fun x => (h x).2)
  obtain ⟨hl', hr'⟩ := encloses_iff.1 ((encloses_iff_subset hb ha).2 fun x => (h x).1)
  exact ⟨ha.1, hb.1, le_antisymm hl hl', le_antisymm hr' hr⟩

end

/-- Settles O52. -/
theorem predicatesMeanTheirSets : Obligations.PredicatesMeanTheirSets := by
  unfold Obligations.PredicatesMeanTheirSets
  refine ⟨fun g => illformed_iff_empty, fun a b ha hb => ⟨?less, ?greater, ?nowhere, ?somewhere,
    identical_iff_same ha hb, encloses_iff_subset ha hb⟩⟩
  case less => rw [tLess_iff ha hb, right_rank_lt_left_rank_iff ha hb]
  case greater =>
    rw [tGreater_iff ha hb, right_rank_lt_left_rank_iff hb ha]
    exact ⟨fun h x y hx hy => h y x hy hx, fun h y x hy hx => h x y hx hy⟩
  case nowhere => rw [tNowhereEqual_iff ha hb, not_common_iff ha hb]
  case somewhere =>
    rw [tSomewhereEqual_eq_not ha hb, Bool.not_eq_true', Bool.eq_false_iff, Ne, tNowhereEqual_iff ha hb,
      not_common_iff ha hb, not_forall_not]

/-! ### MIN and MAX (43_compare_select.md R191, R192, R196 (c)) -/

theorem rank_minEnd (sd : Side) (p q : Gnum) : (minEnd sd p q).rank sd = min (p.rank sd) (q.rank sd) := by
  have hle : (cmpE p sd q sd != .gt) = true ↔ p.rank sd ≤ q.rank sd := by
    rw [bne_iff_ne, cmpE_eq_compare_rank, compare_le_iff_le]
  by_cases h : p.rank sd ≤ q.rank sd
  · rw [minEnd, if_pos (hle.2 h), min_eq_left h]
  · rw [minEnd, if_neg (mt hle.1 h), min_eq_right (not_le.1 h).le]

theorem rank_maxEnd (sd : Side) (p q : Gnum) : (maxEnd sd p q).rank sd = max (p.rank sd) (q.rank sd) := by
  have hle : (cmpE p sd q sd != .lt) = true ↔ q.rank sd ≤ p.rank sd := by
    rw [bne_iff_ne, cmpE_eq_compare_rank, compare_ge_iff_ge]
  by_cases h : q.rank sd ≤ p.rank sd
  · rw [maxEnd, if_pos (hle.2 h), max_eq_left h]
  · rw [maxEnd, if_neg (mt hle.1 h), max_eq_right (not_le.1 h).le]

section
variable {a b : Gbnd}

theorem minG_of_numbers (ha : a.nan = false) (hb : b.nan = false) :
    minG a b = ⟨false, minEnd .left a.l b.l, minEnd .right a.r b.r⟩ := by
  simp [minG, ha, hb]

theorem maxG_of_numbers (ha : a.nan = false) (hb : b.nan = false) :
    maxG a b = ⟨false, maxEnd .left a.l b.l, maxEnd .right a.r b.r⟩ := by
  simp [maxG, ha, hb]

variable (ha : a.Proper) (hb : b.Proper)
include ha hb

theorem minG_proper : (minG a b).Proper := by
  rw [minG_of_numbers ha.1 hb.1]
  refine ⟨rfl, illformed_eq_false_iff.2 ?_⟩
  rw [rank_minEnd, rank_minEnd]
  exact min_le_min ha.ends_le hb.ends_le

theorem maxG_proper : (maxG a b).Proper := by
  rw [maxG_of_numbers ha.1 hb.1]
  refine ⟨rfl, illformed_eq_false_iff.2 ?_⟩
  rw [rank_maxEnd, rank_maxEnd]
  exact max_le_max ha.ends_le hb.ends_le

theorem minG_holds_iff {z : ExtNum} :
    (minG a b).Holds z ↔ min (a.l.rank .left) (b.l.rank .left) ≤ atNum z ∧
      atNum z ≤ min (a.r.rank .right) (b.r.rank .right) := by
  rw [(minG_proper ha hb).holds_iff, minG_of_numbers ha.1 hb.1, rank_minEnd, rank_minEnd]

theorem maxG_holds_iff {z : ExtNum} :
    (maxG a b).Holds z ↔ max (a.l.rank .left) (b.l.rank .left) ≤ atNum z ∧
      atNum z ≤ max (a.r.rank .right) (b.r.rank .right) := by
  rw [(maxG_proper ha hb).holds_iff, maxG_of_numbers ha.1 hb.1, rank_maxEnd, rank_maxEnd]

omit ha in
/-- What lies within one side of an interval has an element of it on the other side. -/
theorem Gbnd.Proper.exists_ge {z : ExtNum} (hz : atNum z ≤ b.r.rank .right) : ∃ y, b.Holds y ∧ z ≤ y := by
  by_cases hl : b.l.rank .left ≤ atNum z
  · exact ⟨z, hb.holds_iff.2 ⟨hl, hz⟩, le_rfl⟩
  · obtain ⟨y, hy⟩ := hb.exists_holds
    exact ⟨y, hy, (atNum_lt_atNum.1 ((not_le.1 hl).trans_le (hb.holds_iff.1 hy).1)).le⟩

omit ha in
theorem Gbnd.Proper.exists_le {z : ExtNum} (hz : b.l.rank .left ≤ atNum z) : ∃ y, b.Holds y ∧ y ≤ z := by
  by_cases hr : atNum z ≤ b.r.rank .right
  · exact ⟨z, hb.holds_iff.2 ⟨hz, hr⟩, le_rfl⟩
  · obtain ⟨y, hy⟩ := hb.exists_holds
    exact ⟨y, hy, (atNum_lt_atNum.1 ((hb.holds_iff.1 hy).2.trans_lt (not_le.1 hr))).le⟩

theorem minG_holds_iff_min {z : ExtNum} : (minG a b).Holds z ↔ ∃ x y, a.Holds x ∧ b.Holds y ∧ z = min x y := by
  rw [minG_holds_iff ha hb]
  constructor
  · rintro ⟨hl, hr⟩
    obtain ⟨hra, hrb⟩ := le_min_iff.1 hr
    obtain hla | hlb := min_le_iff.1 hl
    · obtain ⟨y, hy, hzy⟩ := hb.exists_ge hrb
      exact ⟨z, y, ha.holds_iff.2 ⟨hla, hra⟩, hy, (min_eq_left hzy).symm⟩
    · obtain ⟨x, hx, hzx⟩ := ha.exists_ge hra
      exact ⟨x, z, hx, hb.holds_iff.2 ⟨hlb, hrb⟩, (min_eq_right hzx).symm⟩
  · rintro ⟨x, y, hx, hy, rfl⟩
    obtain ⟨hlx, hxr⟩ := ha.holds_iff.1 hx
    obtain ⟨hly, hyr⟩ := hb.holds_iff.1 hy
    obtain hxy | hyx := le_total x y
    · rw [min_eq_left hxy]
      exact ⟨(min_le_left _ _).trans hlx, le_min hxr ((atNum_le_atNum.2 hxy).trans hyr)⟩
    · rw [min_eq_right hyx]
      exact ⟨(min_le_right _ _).trans hly, le_min ((atNum_le_atNum.2 hyx).trans hxr) hyr⟩

theorem maxG_holds_iff_max {z : ExtNum} : (maxG a b).Holds z ↔ ∃ x y, a.Holds x ∧ b.Holds y ∧ z = max x y := by
  rw [maxG_holds_iff ha hb]
  constructor
  · rintro ⟨hl, hr⟩
    obtain ⟨hla, hlb⟩ := max_le_iff.1 hl
    obtain hra | hrb := le_max_iff.1 hr
    · obtain ⟨y, hy, hyz⟩ := hb.exists_le hlb
      exact ⟨z, y, ha.holds_iff.2 ⟨hla, hra⟩, hy, (max_eq_left hyz).symm⟩
    · obtain ⟨x, hx, hxz⟩ := ha.exists_le hla
      exact ⟨x, z, hx, hb.holds_iff.2 ⟨hlb, hrb⟩, (max_eq_right hxz).symm⟩
  · rintro ⟨x, y, hx, hy, rfl⟩
    obtain ⟨hlx, hxr⟩ := ha.holds_iff.1 hx
    obtain ⟨hly, hyr⟩ := hb.holds_iff.1 hy
    obtain hxy | hyx := le_total x y
    · rw [max_eq_right hxy]
      exact ⟨max_le (hlx.trans (atNum_le_atNum.2 hxy)) hly, hyr.trans (le_max_right _ _)⟩
    · rw [max_eq_left hyx]
      exact ⟨max_le hlx (hly.trans (atNum_le_atNum.2 hyx)), hxr.trans (le_max_left _ _)⟩

end

theorem encloses_refl (a : Gbnd) : encloses a a = true := encloses_iff.2 ⟨le_rfl, le_rfl⟩

theorem encloses_trans {a b c : Gbnd} (hab : encloses a b = true) (hbc : encloses b c = true) :
    encloses a c = true := by
  obtain ⟨hl, hr⟩ := encloses_iff.1 hab
  obtain ⟨hl', hr'⟩ := encloses_iff.1 hbc
  exact encloses_iff.2 ⟨hl.trans hl', hr'.trans hr⟩

/-- Settles O54. -/
theorem minAndMaxAreTheSetsOfLeastAndGreatest : Obligations.MinAndMaxAreTheSetsOfLeastAndGreatest := by
  unfold Obligations.MinAndMaxAreTheSetsOfLeastAndGreatest
  exact ⟨fun a b ha hb => ⟨minG_proper ha hb, maxG_proper ha hb, fun z => minG_holds_iff_min ha hb,
    fun z => maxG_holds_iff_max ha hb⟩, encloses_refl, fun _ _ _ => encloses_trans⟩

/-- Settles O55. -/
theorem negationMirrorsAndIsAnInvolution : Obligations.NegationMirrorsAndIsAnInvolution := by
  unfold Obligations.NegationMirrorsAndIsAnInvolution
  intro g h
  exact ⟨(negg_nan g).trans h, identical_negg_negg h, illformed_negg h, fun _ => negg_holds h _, negg_holds h _,
    negg_holds h _⟩

end Sys2Proof.Machine
end

section
/-! PROOF. The normalised encoding of an endpoint (10_state.md R27): it is the same endpoint and one number has one, and
what a G register holds of it; MIN, MAX, CLIPL, CLIPH and NEGG (43_compare_select.md R191 to R195); O53 and O56. -/

namespace Sys2Proof.Machine

/-! ### One number has one normalised encoding -/

/-- An odd significand and its exponent are given by the number. -/
theorem odd_mul_zpow_injective {m n : Nat} {a b : Int} (hm : m % 2 = 1) (hn : n % 2 = 1)
    (h : (m : ℚ) * 2 ^ a = n * 2 ^ b) : m = n ∧ a = b := by
  have key {m n : Nat} {a b : Int} (hm : m % 2 = 1) (hab : a ≤ b) (h : (m : ℚ) * 2 ^ a = n * 2 ^ b) :
      m = n ∧ a = b := by
    obtain ⟨k, rfl⟩ := Int.le.dest hab
    rw [zpow_add₀ two_ne_zero, zpow_natCast, mul_left_comm, mul_comm, mul_right_inj' (by positivity)] at h
    have hnat : m = n * 2 ^ k := by exact_mod_cast h
    cases k with
    | zero => simpa using hnat
    | succ k => rw [pow_succ, ← mul_assoc] at hnat; omega
  obtain hab | hba := le_total a b
  · exact key hm hab h
  · obtain ⟨hnm, hba⟩ := key hn hba h.symm
    exact ⟨hnm.symm, hba.symm⟩

theorem Dyad.sg_eq_of_man_ne_zero {x : Dyad} (h : x.man ≠ 0) : x.sg = decide (x.toRat < 0) := by
  rw [← Dyad.isNeg_eq_decide, Dyad.isNeg]
  simp [h]

theorem Dyad.norm_eq_of_toRat_eq {x y : Dyad} (h : x.toRat = y.toRat) : x.norm = y.norm := by
  have hzero : x.man = 0 ↔ y.man = 0 := by rw [← Dyad.toRat_eq_zero_iff, h, Dyad.toRat_eq_zero_iff]
  by_cases hx : x.man = 0
  · rw [Dyad.norm_of_man_eq_zero hx, Dyad.norm_of_man_eq_zero (hzero.1 hx)]
  · have hy : y.man ≠ 0 := mt hzero.2 hx
    obtain ⟨-, -, -, hsx, hox⟩ := Dyad.norm_spec hx
    obtain ⟨-, -, -, hsy, hoy⟩ := Dyad.norm_spec hy
    have hsg : x.norm.sg = y.norm.sg := by
      rw [hsx, hsy, Dyad.sg_eq_of_man_ne_zero hx, Dyad.sg_eq_of_man_ne_zero hy, h]
    have habs : (x.norm.man : ℚ) * 2 ^ x.norm.exp = y.norm.man * 2 ^ y.norm.exp := by
      rw [← Dyad.abs_toRat_norm, ← Dyad.abs_toRat_norm, h]
    obtain ⟨hman, hexp⟩ := odd_mul_zpow_injective hox hoy habs
    cases hx' : x.norm
    cases hy' : y.norm
    simp_all

/-- The normalised encoding has an odd significand, or is that of 0. -/
theorem Dyad.norm_odd_or_zero (x : Dyad) : x.norm.man % 2 = 1 ∨ x.norm = Dyad.zero := by
  by_cases hx : x.man = 0
  · exact .inr (Dyad.norm_of_man_eq_zero hx)
  · obtain ⟨-, -, -, -, hodd⟩ := Dyad.norm_spec hx
    exact .inl hodd

/-! ### The normalised encoding of an endpoint -/

theorem Gnum.norm_of_finite {p : Gnum} (h : p.inf = false) : p.norm = fin p.val p.opn := by
  rw [Gnum.norm, h, if_neg Bool.false_ne_true]

theorem Gnum.norm_of_inf {p : Gnum} (h : p.inf = true) : p.norm = infOf p.val.isNeg p.opn := by
  rw [Gnum.norm, if_pos h, infOf]

theorem infOf_toNum (s o : Bool) : (infOf s o).toNum = if s then ⊥ else ((⊤ : WithTop ℚ) : ExtNum) := by
  cases s <;> rfl

theorem Gnum.norm_fields (p : Gnum) : p.norm.toNum = p.toNum ∧ p.norm.opn = p.opn ∧ p.norm.inf = p.inf := by
  cases h : p.inf
  · rw [Gnum.norm_of_finite h, fin_toNum, Gnum.toNum_of_finite h]
    exact ⟨rfl, rfl, rfl⟩
  · rw [Gnum.norm_of_inf h, infOf_toNum, Gnum.toNum_of_inf h]
    refine ⟨rfl, ?_⟩
    cases p.val.isNeg <;> exact ⟨rfl, rfl⟩

theorem Gnum.norm_norm (p : Gnum) : p.norm.norm = p.norm := by
  cases h : p.inf
  · rw [Gnum.norm_of_finite h, fin_norm]
  · rw [Gnum.norm_of_inf h]
    cases p.val.isNeg <;> rfl

theorem Gnum.norm_unique {p q : Gnum} (hnum : p.toNum = q.toNum) (hopn : p.opn = q.opn) (hinf : p.inf = q.inf) :
    p.norm = q.norm := by
  cases h : q.inf
  · rw [h] at hinf
    rw [Gnum.toNum_of_finite hinf, Gnum.toNum_of_finite h] at hnum
    rw [Gnum.norm_of_finite hinf, Gnum.norm_of_finite h, fin, fin, hopn,
      Dyad.norm_eq_of_toRat_eq (coe_rat_strictMono.injective hnum)]
  · rw [h] at hinf
    rw [Gnum.toNum_of_inf hinf, Gnum.toNum_of_inf h] at hnum
    have hsign : p.val.isNeg = q.val.isNeg := by
      cases hp : p.val.isNeg <;> cases hq : q.val.isNeg <;> simp [hp, hq] at hnum ⊢
    rw [Gnum.norm_of_inf hinf, Gnum.norm_of_inf h, hsign, hopn]

/-- Settles O56. -/
theorem normalisationKeepsTheEndpoint : Obligations.NormalisationKeepsTheEndpoint := by
  unfold Obligations.NormalisationKeepsTheEndpoint
  refine ⟨fun p => ?_, fun p q => Gnum.norm_unique⟩
  obtain ⟨hnum, hopn, hinf⟩ := p.norm_fields
  refine ⟨hnum, hopn, hinf, p.norm_norm, fun h => ?infinite, fun h hman => ?posInf, fun h => ?finite⟩
  case infinite =>
    rw [Gnum.norm_of_inf h]
    cases p.val.isNeg <;> exact ⟨rfl, rfl⟩
  case posInf =>
    have hneg : p.val.isNeg = false := by simp [Dyad.isNeg, hman]
    rw [Gnum.toNum_of_inf h, hneg, if_neg Bool.false_ne_true]
  case finite =>
    rw [Gnum.norm_of_finite h]
    exact p.val.norm_odd_or_zero.imp_right fun h0 => by simp [fin, h0, Dyad.zero]

/-! ### What a G register holds of a normalised endpoint -/

theorem Gnum.val_isNeg_of_bot {p : Gnum} (h : p.toNum = ⊥) : p.val.isNeg = true := by
  cases hinf : p.inf
  · rw [Gnum.toNum_of_finite hinf] at h
    exact absurd h WithBot.coe_ne_bot
  · rw [Gnum.toNum_of_inf hinf] at h
    cases hneg : p.val.isNeg
    · rw [hneg, if_neg Bool.false_ne_true] at h
      exact absurd h WithBot.coe_ne_bot
    · rfl

/-- An infinity with an encoding in the register's widths is held as it is: its normalised encoding is 1. -/
theorem storable_infOf {c : Config} (hc : 1 ≤ c.gmw) (s o : Bool) : Storable c (infOf s o) := by
  have hone : 1 < 2 ^ c.gmw := Nat.one_lt_two_pow (by omega)
  cases s <;> exact ⟨hone, expFits_zero c⟩

theorem fitDyad_norm_toRat {c : Config} {x y : Dyad} (hman : y.man < 2 ^ c.gmw) (hexp : expFits c y.exp = true)
    (h : y.toRat = x.toRat) : (fitDyad c x.norm).toRat = x.toRat := by
  rw [← Dyad.norm_eq_of_toRat_eq h]
  by_cases hy : y.man = 0
  · rw [Dyad.norm_of_man_eq_zero hy, fitDyad_of_fits (Nat.two_pow_pos _) (expFits_zero c),
      ← Dyad.norm_of_man_eq_zero hy, Dyad.toRat_norm, h]
  · obtain ⟨j, hj, hjexp, -, -⟩ := Dyad.norm_spec hy
    have hfit := fitDyad_toRat (c := c) y.norm_zero (k := j) (by rwa [← hj])
      (by rwa [hjexp, Int.add_sub_cancel])
    rw [hfit, Dyad.toRat_norm, h]

/-- A number with an encoding in the register's widths is held exactly. -/
theorem fitGnum_norm_toNum {c : Config} {p q : Gnum} (hq : Storable c q) (h : q.toNum = p.toNum) :
    (fitGnum c p.norm).toNum = p.toNum := by
  cases hp : p.inf
  · rw [Gnum.toNum_of_finite hp] at h ⊢
    have hqfin : q.inf = false := by
      by_contra hqinf
      rw [Gnum.toNum_of_inf (Bool.not_eq_false _ ▸ hqinf)] at h
      cases hneg : q.val.isNeg <;> simp [hneg] at h
    rw [Gnum.toNum_of_finite hqfin] at h
    rw [Gnum.norm_of_finite hp, Gnum.toNum_of_finite rfl]
    exact congrArg _ (congrArg _ (fitDyad_norm_toRat hq.1 hq.2 (coe_rat_strictMono.injective h)))
  · rw [Gnum.norm_of_inf hp]
    rw [Gnum.toNum_of_inf hp] at h ⊢
    cases hneg : p.val.isNeg
    · obtain ⟨-, hsg, -, -⟩ := fitGnum_storable c (infOf false p.opn) nofun
      have hpos : (fitGnum c (infOf false p.opn)).val.isNeg = false := by rw [Dyad.isNeg, hsg]; rfl
      rw [Gnum.toNum_of_inf rfl, hpos]
    · rw [hneg, if_pos rfl] at h
      have hman : q.val.man ≠ 0 := fun h0 => by simpa [Dyad.isNeg, h0] using Gnum.val_isNeg_of_bot h
      have hgmw : 1 ≤ c.gmw := by
        by_contra h0
        have := hq.1
        rw [Nat.lt_one_iff.1 (not_le.1 h0)] at this
        omega
      rw [fitGnum_of_storable (storable_infOf hgmw true p.opn)]
      rfl

theorem writtenNormalised_fitGnum (c : Config) (p : Gnum) : WrittenNormalised c (fitGnum c p.norm) p := by
  obtain ⟨-, hopn, hinf⟩ := p.norm_fields
  obtain ⟨hstorable, -, hopn', hinf'⟩ := fitGnum_storable c p.norm p.norm_zero
  exact ⟨hopn'.trans hopn, hinf'.trans hinf, hstorable, fun ⟨q, hq, h⟩ => fitGnum_norm_toNum hq h,
    fun h => fitGnum_of_storable h⟩

/-! ### The selector commands (43_compare_select.md R191 to R195) -/

theorem fitGbnd_norm_of_number (c : Config) {v : Gbnd} (h : v.nan = false) :
    fitGbnd c v.norm = ⟨false, fitGnum c v.l.norm, fitGnum c v.r.norm⟩ := by
  simp [Gbnd.norm, h, fitGbnd]

theorem fitGbnd_norm_of_nan (c : Config) {v : Gbnd} (h : v.nan = true) : fitGbnd c v.norm = nanG := by
  have hzero : Storable c nanG.l := ⟨Nat.two_pow_pos _, expFits_zero c⟩
  have hend : fitGnum c nanG.l = nanG.l := fitGnum_of_storable hzero
  rw [Gbnd.norm, if_pos h, fitGbnd]
  exact congrArg₂ (Gbnd.mk true) hend hend

/-- The state a selector command leaves: its interval written, and its flags. -/
def State.selects (s : State) (rd : GReg) (v : Gbnd) (x : Status) : State :=
  { s with g := s.g.set rd (fitGbnd s.cfg v.norm), status := x }

section
variable (rd ra rb : GReg) {s : State} (hv : s.env.v = true)
include hv

theorem exec_min : exec (.min rd ra rb) s = .next (s.selects rd (minG (s.readG ra) (s.readG rb))
    { s.status with nanf := (minG (s.readG ra) (s.readG rb)).nan }) := State.needEnv_of_env hv _

theorem exec_max : exec (.max rd ra rb) s = .next (s.selects rd (maxG (s.readG ra) (s.readG rb))
    { s.status with nanf := (maxG (s.readG ra) (s.readG rb)).nan }) := State.needEnv_of_env hv _

theorem exec_clipl : exec (.clipl rd ra rb) s = .next (s.selects rd (clipLow (s.readG ra) (s.readG rb))
    { s.status with
      clip := clipsLow (s.readG ra) (s.readG rb), nanf := (clipLow (s.readG ra) (s.readG rb)).nan }) :=
  State.needEnv_of_env hv _

theorem exec_cliph : exec (.cliph rd ra rb) s = .next (s.selects rd (clipHigh (s.readG ra) (s.readG rb))
    { s.status with
      clip := clipsHigh (s.readG ra) (s.readG rb), nanf := (clipHigh (s.readG ra) (s.readG rb)).nan }) :=
  State.needEnv_of_env hv _

theorem exec_negg : exec (.negg rd ra) s = .next (s.selects rd (negg (s.readG ra))
    { s.status with nanf := (negg (s.readG ra)).nan }) := State.needEnv_of_env hv _

end

section
variable {a b : Gbnd}

theorem bothNumbers_iff : bothNumbers a b = true ↔ a.nan = false ∧ b.nan = false := by simp [bothNumbers]

section
variable (h : a.nan = true ∨ b.nan = true)
include h

theorem selectors_of_nan :
    minG a b = nanG ∧ maxG a b = nanG ∧ clipLow a b = nanG ∧ clipHigh a b = nanG := by
  have hor : (a.nan || b.nan) = true := Bool.or_eq_true_iff.2 h
  simp [minG, maxG, clipLow, clipHigh, hor]

theorem clips_of_nan : clipsLow a b = false ∧ clipsHigh a b = false := by
  have hboth : bothNumbers a b = false := by
    rw [Bool.eq_false_iff, Ne, bothNumbers_iff]
    obtain h | h := h <;> simp [h]
  simp [clipsLow, clipsHigh, hboth]

end

section
variable (ha : a.nan = false) (hb : b.nan = false)
include ha hb

theorem clipLow_of_numbers : clipLow a b = ⟨false, if clipsLow a b then b.l else a.l, a.r⟩ := by
  simp only [clipLow, ha, hb, Bool.or_self, Bool.false_eq_true, if_false]
  split
  · rfl
  · rw [← ha]

theorem clipHigh_of_numbers : clipHigh a b = ⟨false, a.l, if clipsHigh a b then b.r else a.r⟩ := by
  simp only [clipHigh, ha, hb, Bool.or_self, Bool.false_eq_true, if_false]
  split
  · rfl
  · rw [← ha]

theorem clipsLow_iff : clipsLow a b = true ↔ cmpE b.l .left a.l .left = .gt := by
  simp [clipsLow, bothNumbers_iff.2 ⟨ha, hb⟩]

theorem clipsHigh_iff : clipsHigh a b = true ↔ cmpE b.r .right a.r .right = .lt := by
  simp [clipsHigh, bothNumbers_iff.2 ⟨ha, hb⟩]

end

end

theorem minEnd_eq (sd : Side) (p q : Gnum) : minEnd sd p q = if cmpE p sd q sd ≠ .gt then p else q := by
  simp [minEnd]

theorem maxEnd_eq (sd : Side) (p q : Gnum) : maxEnd sd p q = if cmpE p sd q sd ≠ .lt then p else q := by
  simp [maxEnd]

/-- Settles O53. Each command writes one interval normalised, which is its rule's formula; what the register then holds
of an end is `writtenNormalised_fitGnum`. -/
theorem selectorCommands : Obligations.SelectorCommands := by
  unfold Obligations.SelectorCommands
  intro s rd ra rb hv a b nan writes writesNan flag clip
  have hwrites {i : Instr} {v : Gbnd} {x : Status} (hexec : exec i s = .next (s.selects rd v x)) {l r : Gnum}
      (hvalue : v = ⟨false, l, r⟩) {y : Status} (hx : x = y) : writes i y l r := by
    subst hvalue hx
    exact ⟨_, hexec, rfl, writtenNormalised_fitGnum s.cfg l, writtenNormalised_fitGnum s.cfg r⟩
  have hwritesNan {i : Instr} {v : Gbnd} {x : Status} (hexec : exec i s = .next (s.selects rd v x))
      (hvalue : v = nanG) {y : Status} (hx : x = y) : writesNan i y := by
    subst hvalue hx
    exact hexec.trans (by rw [State.selects, fitGbnd_norm_of_nan s.cfg rfl]; rfl)
  refine ⟨Laws.EncodeOpcode.min rd ra rb, Laws.EncodeOpcode.max rd ra rb, Laws.EncodeOpcode.clipl rd ra rb,
    Laws.EncodeOpcode.cliph rd ra rb, Laws.EncodeOpcode.negg rd ra, fun h => ?nan, fun ha hb => ?numbers,
    fun ha => ?negNan, fun ha => ?neg⟩
  case nan =>
    obtain ⟨hmin, hmax, hlow, hhigh⟩ := selectors_of_nan h
    obtain ⟨hclipLow, hclipHigh⟩ := clips_of_nan h
    exact ⟨hwritesNan (exec_min rd ra rb hv) hmin (by rw [hmin]; rfl),
      hwritesNan (exec_max rd ra rb hv) hmax (by rw [hmax]; rfl),
      hwritesNan (exec_clipl rd ra rb hv) hlow (by rw [hlow, hclipLow]; rfl),
      hwritesNan (exec_cliph rd ra rb hv) hhigh (by rw [hhigh, hclipHigh]; rfl)⟩
  case numbers =>
    have hmin := minG_of_numbers ha hb
    have hmax := maxG_of_numbers ha hb
    have hlow := clipLow_of_numbers ha hb
    have hhigh := clipHigh_of_numbers ha hb
    have hlow' := clipsLow_iff ha hb
    have hhigh' := clipsHigh_iff ha hb
    rw [← minEnd_eq, ← minEnd_eq, ← maxEnd_eq, ← maxEnd_eq]
    refine ⟨hwrites (exec_min rd ra rb hv) hmin (by rw [hmin]), hwrites (exec_max rd ra rb hv) hmax (by rw [hmax]),
      fun h => ?_, fun h => ?_, fun h => ?_, fun h => ?_⟩
    · have hclip := hlow'.2 h
      exact hwrites (exec_clipl rd ra rb hv) (by rw [hlow, hclip]; rfl) (by rw [hlow, hclip])
    · have hclip := Bool.eq_false_iff.2 (mt hlow'.1 h)
      exact hwrites (exec_clipl rd ra rb hv) (by rw [hlow, hclip]; rfl) (by rw [hlow, hclip])
    · have hclip := hhigh'.2 h
      exact hwrites (exec_cliph rd ra rb hv) (by rw [hhigh, hclip]; rfl) (by rw [hhigh, hclip])
    · have hclip := Bool.eq_false_iff.2 (mt hhigh'.1 h)
      exact hwrites (exec_cliph rd ra rb hv) (by rw [hhigh, hclip]; rfl) (by rw [hhigh, hclip])
  case negNan =>
    have hneg : negg a = nanG := if_pos ha
    exact hwritesNan (exec_negg rd ra hv) hneg (by rw [hneg]; rfl)
  case neg =>
    have hneg := negg_of_number ha
    exact hwrites (exec_negg rd ra hv) hneg (by rw [hneg])

end Sys2Proof.Machine
end

section
/-! PROOF. The value and the interval of a unum (42_pack.md R151, R152): a magnitude, the next one away from zero, and
the ends of a sliver; O41 and O42. -/

namespace Sys2Proof.Machine

/-! ### The magnitude of a payload (42_pack.md R151) -/

/-- The magnitude of a payload, as a rational. -/
def magVal (e f es fs : Nat) : ℚ :=
  if e = 0 then (f : ℚ) * 2 ^ (1 - bias es - fs) else ((2 ^ fs + f : Nat) : ℚ) * 2 ^ ((e : Int) - bias es - fs)

/-- The distance from a payload's magnitude to the next. -/
def ulpVal (e es fs : Nat) : ℚ := 2 ^ ((max e 1 : Int) - bias es - fs)

theorem magOf_toRat (e f es fs : Nat) : (magOf e f es fs).toRat = magVal e f es fs := by
  by_cases he : e = 0
  · rw [he, magOf_subnormal, Dyad.toRat_norm, Dyad.toRat_of_nonneg, magVal, if_pos rfl]
  · rw [magOf_normal he, Dyad.toRat_norm, Dyad.toRat_of_nonneg, magVal, if_neg he]

theorem magVal_nonneg (e f es fs : Nat) : 0 ≤ magVal e f es fs := by
  unfold magVal
  split <;> positivity

theorem ulpVal_pos (e es fs : Nat) : 0 < ulpVal e es fs := by
  unfold ulpVal
  positivity

/-- The magnitude in units of the last place: the hidden bit is 1 for a normal. -/
theorem magVal_eq_ulps (e f es fs : Nat) :
    magVal e f es fs = ((if e = 0 then f else 2 ^ fs + f : Nat) : ℚ) * ulpVal e es fs := by
  by_cases he : e = 0
  · simp [magVal, ulpVal, he]
  · have hmax : (max e 1 : Int) = e := by omega
    rw [magVal, ulpVal, if_neg he, if_neg he, hmax]

/-- The next payload up is one unit of the last place further from zero, over the end of a fraction and from the
subnormals to the normals alike. -/
theorem magVal_succ {e f es fs : Nat} (hf : f < 2 ^ fs) :
    magVal ((e * 2 ^ fs + f + 1) / 2 ^ fs) ((e * 2 ^ fs + f + 1) % 2 ^ fs) es fs =
      magVal e f es fs + ulpVal e es fs := by
  obtain hlt | heq := Nat.lt_or_eq_of_le (Nat.succ_le_of_lt hf)
  · rw [Nat.add_assoc, payload_div hlt, payload_mod hlt, magVal_eq_ulps, magVal_eq_ulps]
    split <;> push_cast <;> ring
  · have hnext : e * 2 ^ fs + f + 1 = (e + 1) * 2 ^ fs + 0 := by
      rw [Nat.add_assoc, show f + 1 = 2 ^ fs from heq]
      ring
    have hfrac : (f : ℚ) = 2 ^ fs - 1 := by
      rw [eq_sub_iff_add_eq]
      exact_mod_cast heq
    rw [hnext, payload_div (Nat.two_pow_pos fs), payload_mod (Nat.two_pow_pos fs), magVal_eq_ulps, magVal_eq_ulps,
      if_neg (Nat.succ_ne_zero e)]
    by_cases he : e = 0
    · subst he
      rw [if_pos rfl, hfrac]
      simp only [ulpVal, Nat.zero_add, Nat.cast_one, Nat.cast_zero, max_eq_right zero_le_one, max_self]
      push_cast
      ring
    · have hulp : ulpVal (e + 1) es fs = 2 * ulpVal e es fs := by
        have hmax : (max ((e + 1 : Nat) : Int) 1 : Int) = e + 1 := by omega
        have hmax' : (max e 1 : Int) = e := by omega
        rw [ulpVal, ulpVal, hmax, hmax', ← zpow_one_add₀ two_ne_zero]
        congr 1
        ring
      rw [hulp, if_neg he]
      push_cast
      rw [hfrac]
      ring

/-! ### The value of a unum -/

theorem isSpecial_iff {E : Env} {u : Unum} :
    isSpecial E u = true ↔ esOf E u = E.esmax ∧ fsOf E u = E.fsmax ∧ expoOf E u = 2 ^ esOf E u - 1 ∧
      fracOf E u = 2 ^ fsOf E u - 1 := by
  simp only [isSpecial, Bool.and_eq_true, beq_iff_eq, ones, and_assoc]
  constructor
  · rintro ⟨hes, hfs, he, hf⟩
    exact ⟨hes, hfs, by rw [he, hes], by rw [hf, hfs]⟩
  · rintro ⟨hes, hfs, he, hf⟩
    exact ⟨hes, hfs, by rw [he, hes], by rw [hf, hfs]⟩

/-- The rational magnitude of a unum. -/
def magRat (E : Env) (u : Unum) : ℚ := magVal (expoOf E u) (fracOf E u) (esOf E u) (fsOf E u)

theorem mag_toRat (E : Env) (u : Unum) : (mag E u).toRat = magRat E u := magOf_toRat _ _ _ _

theorem Dyad.toRat_signed (x : Dyad) (s : Bool) : (x.signed s).toRat = (if s then -1 else 1) * x.toRat := by
  cases s <;> simp [Dyad.signed, Dyad.toRat_neg]

theorem u2r_of_special {E : Env} {u : Unum} (h : isSpecial E u = true) : u2r E u = infOf (signOf E u) false := if_pos h

theorem u2r_of_number {E : Env} {u : Unum} (h : isSpecial E u = false) :
    u2r E u = fin ((mag E u).signed (signOf E u)) false := by
  rw [u2r, h, if_neg Bool.false_ne_true]

theorem u2r_val_toRat {E : Env} {u : Unum} (h : isSpecial E u = false) :
    (u2r E u).val.toRat = (if signOf E u then -1 else 1) * magRat E u := by
  rw [u2r_of_number h, fin, Dyad.toRat_norm, Dyad.toRat_signed, mag_toRat]

/-- Settles O41. -/
theorem unumValue : Obligations.UnumValue := by
  unfold Obligations.UnumValue
  intro E u es fs e f b special
  have hspecial : special ↔ isSpecial E u = true := isSpecial_iff.symm
  refine ⟨fun h => ?_, fun h => ?_⟩
  · rw [u2r_of_special (hspecial.1 h), infOf_toNum]
    refine ⟨?_, ?_, rfl⟩ <;> cases signOf E u <;> rfl
  · have hnumber := Bool.eq_false_iff.2 (mt hspecial.2 h)
    refine ⟨?_, ?_, u2r_val_toRat hnumber⟩ <;> rw [u2r_of_number hnumber] <;> rfl

/-! ### The interval of a unum (42_pack.md R152) -/

theorem isWidest_iff {E : Env} {u : Unum} :
    isWidest E u = true ↔ expoOf E u = 2 ^ esOf E u - 1 ∧
      fracOf E u = if esOf E u = E.esmax ∧ fsOf E u = E.fsmax then 2 ^ fsOf E u - 2 else 2 ^ fsOf E u - 1 := by
  rw [isWidest, beq_iff_eq, widest]
  split <;> simp [ones, Nat.sub_sub]

/-- A unum that is neither special nor the widest of its tag has a next payload. -/
theorem payload_succ_lt {E : Env} {u : Unum} (hsp : isSpecial E u = false) (hw : isWidest E u = false) :
    payloadOf E u + 1 < 2 ^ (fsOf E u + esOf E u) := by
  have he := expoOf_lt E u
  have hf := fracOf_lt E u
  have hlt := payloadOf_lt E u
  by_contra hlast
  have hexpo : expoOf E u = 2 ^ esOf E u - 1 := by
    by_contra hne
    have hbound := expo_mul_add_frac_lt (e := expoOf E u + 1) (es := esOf E u) (by omega) hf
    rw [payloadOf] at hlast
    have : (expoOf E u + 1) * 2 ^ fsOf E u = expoOf E u * 2 ^ fsOf E u + 2 ^ fsOf E u := by ring
    omega
  have hfrac : fracOf E u = 2 ^ fsOf E u - 1 := by
    by_contra hne
    have hbound := expo_mul_add_frac_lt (f := fracOf E u + 1) (fs := fsOf E u) he (by omega)
    rw [payloadOf] at hlast
    omega
  by_cases hmax : esOf E u = E.esmax ∧ fsOf E u = E.fsmax
  · exact Bool.false_ne_true (hsp.symm.trans (isSpecial_iff.2 ⟨hmax.1, hmax.2, hexpo, hfrac⟩))
  · exact Bool.false_ne_true (hw.symm.trans (isWidest_iff.2 ⟨hexpo, by rw [if_neg hmax, hfrac]⟩))

/-- Bits above the unum do not change its magnitude. -/
theorem mag_add_high {E : Env} {x k : Nat} (hk : numbits E x ≤ k) (y : Nat) : mag E (x + y * 2 ^ k) = mag E x := by
  rw [numbits] at hk
  have htag : E.utagsize = 1 + E.ess.toNat + E.fss.toNat := rfl
  have hfs : fsOf E (x + y * 2 ^ k) = fsOf E x := by rw [fsOf, slice_add_high (by omega), fsOf]
  have hes : esOf E (x + y * 2 ^ k) = esOf E x := by rw [esOf, slice_add_high (by omega), esOf]
  have hexpo : expoOf E (x + y * 2 ^ k) = expoOf E x := by
    rw [expoOf, hfs, hes, slice_add_high (by omega), expoOf]
  have hfrac : fracOf E (x + y * 2 ^ k) = fracOf E x := by rw [fracOf, hfs, slice_add_high (by omega), fracOf]
  rw [mag, mag, hfs, hes, hexpo, hfrac]

theorem HasPayload.mag_eq {E : Env} {u : Unum} {s ub : Bool} {p es fs : Nat} (h : HasPayload E u s p ub es fs) :
    mag E u = magOf (p / 2 ^ fs) (p % 2 ^ fs) es fs := by
  rw [mag, expoOf_eq_payload_div, fracOf_eq_payload_mod, h.payload, h.es, h.fs]

/-- The unum one ULP up has the next payload. -/
theorem HasPayload.inexact_add_ulpu {E : Env} {u : Unum} {s : Bool} {p es fs : Nat}
    (h : HasPayload E u s p true es fs) (hp : p + 1 < 2 ^ (fs + es)) :
    HasPayload E (u + E.ulpu) s (p + 1) true es fs := by
  have hulp : u + E.ulpu = u + E.ubitmask + E.ubitmask := by
    rw [Env.ulpu, two_pow_utagsize]
    ring
  rw [hulp]
  exact (h.inexact_add_ubitmask hp).exact_add_ubitmask

/-- The far end of a sliver is one unit of the last place from the near end. -/
theorem mag_add_ulpu_toRat {E : Env} {u : Unum} (hub : ubitOf E u = true)
    (hp : payloadOf E u + 1 < 2 ^ (fsOf E u + esOf E u)) :
    (mag E (u + E.ulpu)).toRat = magRat E u + ulpVal (expoOf E u) (esOf E u) (fsOf E u) := by
  obtain ⟨hs, he, hf, hub', hes, hfs, hc⟩ := canon_fields E u
  have hcanon : HasPayload E (canon E u) (signOf E u) (payloadOf E u) true (esOf E u) (fsOf E u) :=
    .of_hasFields ⟨hs, he, hf, hub'.trans hub, hes, hfs, hc⟩
  have hsplit : u = canon E u + u / 2 ^ numbits E u * 2 ^ numbits E u := by
    rw [canon, slice_zero, Nat.mul_comm]
    exact (Nat.mod_add_div u _).symm
  have hnext := hcanon.inexact_add_ulpu hp
  have hnb : numbits E (canon E u + E.ulpu) ≤ numbits E u := by
    rw [numbits, numbits, hnext.es, hnext.fs]
  have hmag : mag E (u + E.ulpu) = mag E (canon E u + E.ulpu) := by
    conv_lhs => rw [hsplit, Nat.add_right_comm]
    exact mag_add_high hnb _
  rw [hmag, hnext.mag_eq, magOf_toRat, payloadOf, magVal_succ (fracOf_lt E u), magRat]

/-- The extended number at a sliver's far end: +∞ from the widest payload of the tag (42_pack.md R152). -/
def farNum (E : Env) (u : Unum) : ExtNum :=
  if isWidest E u then ((⊤ : WithTop ℚ) : ExtNum)
  else (((magRat E u + ulpVal (expoOf E u) (esOf E u) (fsOf E u) : ℚ) : WithTop ℚ) : ExtNum)

/-- The number at a sliver's near end. -/
def nearNum (E : Env) (u : Unum) : ExtNum := ((magRat E u : WithTop ℚ) : ExtNum)

/-- The open interval from `near` to `far`, or its mirror image. -/
structure IsSliver (g : Gbnd) (s : Bool) (near far : ExtNum) : Prop where
  nan : g.nan = false
  lopn : g.l.opn = true
  ropn : g.r.opn = true
  lnum : g.l.toNum = if s then mirror far else near
  rnum : g.r.toNum = if s then mirror near else far

theorem fin_signed_toNum (x : Dyad) (s o : Bool) :
    (fin (x.signed s) o).toNum =
      if s then mirror ((x.toRat : WithTop ℚ) : ExtNum) else ((x.toRat : WithTop ℚ) : ExtNum) := by
  rw [fin_toNum, Dyad.toRat_signed]
  cases s
  · rw [if_neg Bool.false_ne_true, if_neg Bool.false_ne_true, one_mul]
  · rw [if_pos rfl, if_pos rfl, neg_one_mul, mirror_rat]

theorem sliver_of_number (s : Bool) (near far : Dyad) :
    IsSliver (sliver s near (some far)) s ((near.toRat : WithTop ℚ) : ExtNum) ((far.toRat : WithTop ℚ) : ExtNum) := by
  cases s <;> exact ⟨rfl, rfl, rfl, fin_signed_toNum _ _ _, fin_signed_toNum _ _ _⟩

theorem sliver_to_infinity (s : Bool) (near : Dyad) :
    IsSliver (sliver s near none) s ((near.toRat : WithTop ℚ) : ExtNum) ((⊤ : WithTop ℚ) : ExtNum) := by
  cases s
  · exact ⟨rfl, rfl, rfl, fin_signed_toNum _ _ _, rfl⟩
  · exact ⟨rfl, rfl, rfl, rfl, fin_signed_toNum _ _ _⟩

section
variable {E : Env} {u : Unum}

theorem u2g_of_nan (hsp : isSpecial E u = true) (hub : ubitOf E u = true) : u2g E u = nanG := by
  simp [u2g, isNan, hsp, hub]

theorem u2g_of_exact (hub : ubitOf E u = false) : u2g E u = point (u2r E u) := by
  simp [u2g, isNan, hub]

theorem u2g_of_inexact (hsp : isSpecial E u = false) (hub : ubitOf E u = true) :
    u2g E u = sliver (signOf E u) (mag E u) (if isWidest E u then none else some (mag E (u + E.ulpu))) := by
  cases hw : isWidest E u <;> simp [u2g, isNan, isInf, hsp, hub, hw]

/-- An inexact unum that is no NaN is the open interval from its magnitude to the next, away from zero. -/
theorem u2g_isSliver (hsp : isSpecial E u = false) (hub : ubitOf E u = true) :
    IsSliver (u2g E u) (signOf E u) (nearNum E u) (farNum E u) := by
  rw [u2g_of_inexact hsp hub, nearNum, farNum, ← mag_toRat]
  cases hw : isWidest E u
  · rw [if_neg Bool.false_ne_true, if_neg Bool.false_ne_true, mag_toRat,
      ← mag_add_ulpu_toRat hub (payload_succ_lt hsp hw), ← mag_toRat]
    exact sliver_of_number _ _ _
  · exact sliver_to_infinity _ _

end

/-- Settles O42. -/
theorem unumInterval : Obligations.UnumInterval := by
  unfold Obligations.UnumInterval
  intro E u es fs e f b maxTag special widest m m2 top num g
  have hspecial : special ↔ isSpecial E u = true := by
    rw [isSpecial_iff]
    exact and_assoc
  have hwidest : widest ↔ isWidest E u = true := isWidest_iff.symm
  refine ⟨fun h => u2g_of_nan (hspecial.1 h), fun _ => u2g_of_exact, fun _ => u2g_of_exact, fun h hub => ?_⟩
  obtain ⟨hnan, hl, hr, hlnum, hrnum⟩ := u2g_isSliver (Bool.eq_false_iff.2 (mt hspecial.2 h)) hub
  have hfar : farNum E u = if widest then top else num m2 := if_congr hwidest.symm rfl rfl
  have hmirror : mirror (farNum E u) = if widest then ⊥ else num (-m2) := by
    rw [hfar, apply_ite mirror]
    rfl
  refine ⟨hnan, hl, hr, fun hs => ?_, fun hs => ?_⟩
  · rw [hlnum, hrnum, hs, hfar]
    exact ⟨rfl, rfl⟩
  · rw [hlnum, hrnum, hs, hmirror]
    exact ⟨rfl, rfl⟩

end Sys2Proof.Machine
end

section
/-! PROOF. The candidate of the zero case (44_unify.md R216): the rule's search over `j` as a search over powers of 2,
and the interval of an inexact zero; O60. -/

namespace Sys2Proof.Machine

/-- `ceil(log2 r)` is the least exponent of a power of 2 that is not below `r`. -/
theorem le_two_zpow_iff_ceilLog2 {r : Dyad} (hpos : 0 < r.toRat) (c : Int) : r.toRat ≤ 2 ^ c ↔ ceilLog2 r ≤ c := by
  have hman : r.man ≠ 0 := mt Dyad.toRat_eq_zero_iff.2 hpos.ne'
  have hvalue : r.toRat = r.man * 2 ^ r.exp := by rw [← Dyad.abs_toRat, abs_of_pos hpos]
  have hscaled (k : Nat) : (2 : ℚ) ^ ((k : Int) + r.exp) = (2 ^ k : Nat) * 2 ^ r.exp := by
    rw [zpow_add₀ two_ne_zero, zpow_natCast]
    push_cast
    ring
  have hunit : (0 : ℚ) < 2 ^ r.exp := by positivity
  have hlo : (2 : ℚ) ^ r.scale ≤ r.toRat := by
    rw [hvalue, Dyad.scale, hscaled]
    exact mul_le_mul_of_nonneg_right (by exact_mod_cast Nat.log2_self_le hman) hunit.le
  have hhi : r.toRat < (2 : ℚ) ^ (r.scale + 1) := by
    have hexp : r.scale + 1 = ((r.man.log2 + 1 : Nat) : Int) + r.exp := by rw [Dyad.scale]; push_cast; ring
    rw [hvalue, hexp, hscaled]
    exact mul_lt_mul_of_pos_right (by exact_mod_cast Nat.lt_log2_self) hunit
  unfold ceilLog2
  by_cases hpow : r.man = 2 ^ r.man.log2
  · have hexact : r.toRat = 2 ^ r.scale := by
      rw [hvalue, Dyad.scale, hscaled]
      exact congrArg (· * (2 : ℚ) ^ r.exp) (congrArg Nat.cast hpow)
    rw [if_pos hpow, add_zero, hexact, zpow_le_zpow_iff_right₀ one_lt_two]
  · have hstrict : (2 : ℚ) ^ r.scale < r.toRat := by
      rw [hvalue, Dyad.scale, hscaled]
      refine mul_lt_mul_of_pos_right ?_ hunit
      exact_mod_cast (Nat.log2_self_le hman).lt_of_ne (Ne.symm hpow)
    rw [if_neg hpow]
    refine ⟨fun h => ?_, fun h => hhi.le.trans (zpow_le_zpow_right₀ one_le_two h)⟩
    exact Int.add_one_le_of_lt ((zpow_lt_zpow_iff_right₀ one_lt_two).1 (hstrict.trans_le h))

/-- The exponents `j` of the rule's search are those whose power of 2 is at most `1 - ceil(log2 r)`. -/
theorem le_two_zpow_one_sub_iff {r : Dyad} (hpos : 0 < r.toRat) (hlt : r.toRat < 1) (k : Nat) :
    r.toRat ≤ 2 ^ (1 - (2 : Int) ^ k) ↔ k ≤ (1 - ceilLog2 r).toNat.log2 := by
  have hceil : ceilLog2 r ≤ 0 := (le_two_zpow_iff_ceilLog2 hpos 0).1 (by simpa using hlt.le)
  obtain ⟨n, hn⟩ : ∃ n : Nat, 1 - ceilLog2 r = n := Int.eq_ofNat_of_zero_le (by omega)
  have hn0 : n ≠ 0 := by omega
  have hcast : (2 : Int) ^ k = ((2 ^ k : Nat) : Int) := by push_cast; rfl
  rw [le_two_zpow_iff_ceilLog2 hpos, hn, Int.toNat_natCast, Nat.le_log2 hn0, hcast]
  omega

theorem zerocand_hasFields (E : Env) (r : Dyad) :
    HasFields E (zerocand E r) false 0 0 true (min E.esmax ((1 - ceilLog2 r).toNat.log2 + 1)) 1 := by
  have hes : 1 ≤ E.esmax := Nat.two_pow_pos _
  exact mk_hasFields E false true le_rfl (Nat.two_pow_pos _) (by omega) (min_le_left _ _) (by decide)
    (Nat.two_pow_pos _)

/-- The interval of an inexact zero: from 0 to the smallest magnitude of its tag. -/
theorem u2g_of_inexact_zero {E : Env} {u : Unum} {es : Nat} (h : HasFields E u false 0 0 true es 1) (hes : 1 ≤ es) :
    (u2g E u).nan = false ∧ (u2g E u).l = ⟨Dyad.zero, true, false⟩ ∧ (u2g E u).r.opn = true ∧
      (u2g E u).r.toNum = (((2 : ℚ) ^ (1 - (2 : Int) ^ (es - 1)) : ℚ) : WithTop ℚ) := by
  have hmag := mag_of_hasFields h
  obtain ⟨hs, he, hf, hub, hes', hfs, -⟩ := h
  have hones : 0 < 2 ^ es - 1 := Nat.sub_pos_of_lt (Nat.one_lt_two_pow (by omega))
  have hsp : isSpecial E u = false := isSpecial_eq_false_of_expo (by rw [he, hes', ones]; omega)
  have hw : isWidest E u = false := by
    rw [Bool.eq_false_iff, Ne, isWidest_iff, he, hes']
    exact fun hw => hones.ne hw.1
  obtain ⟨hnan, -, hr, -, hrnum⟩ := u2g_isSliver hsp hub
  refine ⟨hnan, ?_, hr, ?_⟩
  · rw [u2g_of_inexact hsp hub, hs, hmag]
    rfl
  · have hvalue : magRat E u + ulpVal (expoOf E u) (esOf E u) (fsOf E u) = 2 ^ (1 - (2 : Int) ^ (es - 1)) := by
      rw [magRat, he, hf, hes', hfs, magVal, if_pos rfl, Nat.cast_zero, zero_mul, zero_add, ulpVal, bias]
      congr 1
      push_cast
      omega
    rw [hrnum, hs, farNum, hw, hvalue]
    rfl

/-- Settles O60. -/
theorem zeroCandidateIsTheGreatest : Obligations.ZeroCandidateIsTheGreatest := by
  unfold Obligations.ZeroCandidateIsTheGreatest
  intro E r hpos hlt
  have hsearch := le_two_zpow_one_sub_iff hpos hlt
  refine ⟨(1 - ceilLog2 r).toNat.log2, (hsearch _).2 le_rfl, fun k hk h => hk.not_ge ((hsearch k).1 h), ?_⟩
  have hfields := zerocand_hasFields E r
  have hes : 1 ≤ min E.esmax ((1 - ceilLog2 r).toNat.log2 + 1) :=
    Nat.le_min_of_le_of_le (Nat.two_pow_pos _) (Nat.succ_pos _)
  exact ⟨hfields, u2g_of_inexact_zero hfields hes⟩

end Sys2Proof.Machine
end

section
/-! PROOF. Demotion as truncation (41_tag.md R132, R133, R135 (b)): the interval of a unum is that of its magnitude or
the mirror image, and a demotion drops the low bits of the significand in a larger unit, or saturates; O40. -/

namespace Sys2Proof.Machine

/-! ### The interval of the magnitude -/

/-- The interval of a unum with the sign left out. -/
def magInterval (E : Env) (u : Unum) : Gbnd :=
  if isNan E u then nanG
  else if isSpecial E u then point (pinf false)
  else if ubitOf E u = false then point (fin (mag E u) false)
  else sliver false (mag E u) (if isWidest E u then none else some (mag E (u + E.ulpu)))

theorem fin_neg (x : Dyad) (o : Bool) : (fin x o).neg = fin x.neg o := by
  have hval : x.norm.neg.norm = x.neg.norm :=
    Dyad.norm_eq_of_toRat_eq (by rw [Dyad.toRat_neg, Dyad.toRat_neg, Dyad.toRat_norm])
  exact congrArg (Gnum.mk · o false) hval

theorem negg_sliver (near : Dyad) (far : Option Dyad) : negg (sliver false near far) = sliver true near far := by
  have hnear : (fin near true).neg = fin near.neg true := fin_neg near true
  cases far with
  | none => exact congrArg (Gbnd.mk false (ninf true)) hnear
  | some x =>
    have hfar : (fin x true).neg = fin x.neg true := fin_neg x true
    exact congrArg₂ (Gbnd.mk false) hfar hnear

theorem negg_point (p : Gnum) : negg (point p) = point p.neg := rfl

/-- The interval of a unum is that of its magnitude, or the mirror image where the sign bit is set. -/
theorem u2g_eq_magInterval (E : Env) (u : Unum) :
    u2g E u = if signOf E u then negg (magInterval E u) else magInterval E u := by
  cases hsp : isSpecial E u <;> cases hub : ubitOf E u
  case false.false =>
    rw [u2g_of_exact hub, u2r_of_number hsp]
    simp only [magInterval, isNan, hsp, hub, Bool.false_and, if_neg Bool.false_ne_true, if_pos, negg_point, fin_neg]
    cases signOf E u <;> rfl
  case false.true =>
    rw [u2g_of_inexact hsp hub]
    simp only [magInterval, isNan, hsp, hub, Bool.false_and, if_neg Bool.false_ne_true, negg_sliver, Bool.true_eq_false,
      if_false]
    cases signOf E u <;> rfl
  case true.false =>
    rw [u2g_of_exact hub, u2r_of_special hsp]
    simp only [magInterval, isNan, hsp, hub, Bool.and_false, if_neg Bool.false_ne_true, if_pos, negg_point]
    cases signOf E u <;> rfl
  case true.true =>
    rw [u2g_of_nan hsp hub]
    simp only [magInterval, isNan, hsp, hub, Bool.and_true, if_pos]
    cases signOf E u <;> rfl

theorem magInterval_nan {E : Env} {u : Unum} (h : isNan E u = false) : (magInterval E u).nan = false := by
  rw [magInterval, h, if_neg Bool.false_ne_true]
  split
  · rfl
  · split <;> rfl

section
variable {E : Env} {u : Unum} (hsp : isSpecial E u = false)
include hsp

theorem magInterval_of_exact (hub : ubitOf E u = false) : magInterval E u = point (fin (mag E u) false) := by
  simp [magInterval, isNan, hsp, hub]

theorem magInterval_of_inexact (hub : ubitOf E u = true) :
    magInterval E u = sliver false (mag E u) (if isWidest E u then none else some (mag E (u + E.ulpu))) := by
  simp [magInterval, isNan, hsp, hub]

/-- Without its sign an inexact unum is the open interval from its magnitude to the next. -/
theorem magInterval_isSliver (hub : ubitOf E u = true) :
    IsSliver (magInterval E u) false (nearNum E u) (farNum E u) := by
  rw [magInterval_of_inexact hsp hub, nearNum, farNum, ← mag_toRat]
  cases hw : isWidest E u
  · rw [if_neg Bool.false_ne_true, if_neg Bool.false_ne_true, mag_toRat,
      ← mag_add_ulpu_toRat hub (payload_succ_lt hsp hw), ← mag_toRat]
    exact sliver_of_number _ _ _
  · exact sliver_to_infinity _ _

end

/-- One unum encloses another of its sign where its magnitude's interval does. -/
theorem encloses_u2g_of_magInterval {E : Env} {x u : Unum} (hx : isNan E x = false) (hu : isNan E u = false)
    (hs : signOf E x = signOf E u) (h : encloses (magInterval E x) (magInterval E u) = true) :
    encloses (u2g E x) (u2g E u) = true := by
  rw [u2g_eq_magInterval E x, u2g_eq_magInterval E u, hs]
  cases signOf E u
  · exact h
  · exact (encloses_negg (magInterval_nan hx) (magInterval_nan hu)).trans h

/-! ### Enclosing, by the magnitudes -/

theorem fin_rank_eq {x y : Dyad} (h : x.toRat = y.toRat) (o : Bool) (sd : Side) :
    (fin x o).rank sd = (fin y o).rank sd := (rank_eq_iff sd).2 ⟨by rw [fin_toNum, fin_toNum, h], rfl⟩

section
variable {E : Env} {x u : Unum} (hx : isSpecial E x = false) (hu : isSpecial E u = false)
include hx hu

theorem encloses_magInterval_of_exact (hxub : ubitOf E x = false) (hub : ubitOf E u = false)
    (h : magRat E x = magRat E u) : encloses (magInterval E x) (magInterval E u) = true := by
  have heq : (mag E x).toRat = (mag E u).toRat := by rw [mag_toRat, mag_toRat, h]
  rw [magInterval_of_exact hx hxub, magInterval_of_exact hu hub, encloses_iff]
  exact ⟨(fin_rank_eq heq _ _).le, (fin_rank_eq heq _ _).ge⟩

theorem encloses_magInterval_of_inside (hxub : ubitOf E x = true) (hub : ubitOf E u = false)
    (hnear : magRat E x < magRat E u) (hfar : nearNum E u < farNum E x) :
    encloses (magInterval E x) (magInterval E u) = true := by
  obtain ⟨-, hl, hr, hlnum, hrnum⟩ := magInterval_isSliver hx hxub
  have hnum (o : Bool) : (fin (mag E u) o).toNum = nearNum E u := by rw [fin_toNum, mag_toRat, nearNum]
  rw [encloses_iff, magInterval_of_exact hu hub]
  simp only [point, Gnum.rank, hl, hr, hlnum, hrnum, hnum, Prod.Lex.toLex_le_toLex]
  exact ⟨.inl (coe_rat_strictMono hnear), .inl hfar⟩

theorem encloses_magInterval_of_inexact (hxub : ubitOf E x = true) (hub : ubitOf E u = true)
    (hnear : magRat E x ≤ magRat E u) (hfar : farNum E u ≤ farNum E x) :
    encloses (magInterval E x) (magInterval E u) = true := by
  obtain ⟨-, hxl, hxr, hxlnum, hxrnum⟩ := magInterval_isSliver hx hxub
  obtain ⟨-, hl, hr, hlnum, hrnum⟩ := magInterval_isSliver hu hub
  rw [encloses_iff]
  simp only [Gnum.rank, hxl, hxr, hxlnum, hxrnum, hl, hr, hlnum, hrnum, Prod.Lex.toLex_le_toLex, le_refl, and_true]
  exact ⟨(coe_rat_strictMono.monotone hnear).lt_or_eq, hfar.lt_or_eq⟩

end

/-! ### Truncation -/

/-- The magnitude in units of the last place, the hidden bit included. -/
def sigOf (E : Env) (u : Unum) : Nat := if expoOf E u = 0 then fracOf E u else 2 ^ fsOf E u + fracOf E u

/-- The unit of the last place of a unum. -/
def ulpOf (E : Env) (u : Unum) : ℚ := ulpVal (expoOf E u) (esOf E u) (fsOf E u)

theorem magRat_eq_sig (E : Env) (u : Unum) : magRat E u = sigOf E u * ulpOf E u := magVal_eq_ulps ..

theorem ulpOf_pos (E : Env) (u : Unum) : 0 < ulpOf E u := ulpVal_pos ..

theorem nearNum_lt_farNum (E : Env) (u : Unum) : nearNum E u < farNum E u := by
  rw [nearNum, farNum]
  split
  · exact WithBot.coe_lt_coe.2 (WithTop.coe_lt_top _)
  · exact coe_rat_strictMono (lt_add_of_pos_right _ (ulpOf_pos E u))

/-- `x` is `u` in a unit `2^k` times as large, the bits below it dropped and the loss marked. -/
structure Truncates (E : Env) (k : Nat) (u x : Unum) : Prop where
  unit : ulpOf E x = 2 ^ k * ulpOf E u
  sig : sigOf E x = sigOf E u / 2 ^ k
  ubit : ubitOf E x = (ubitOf E u || decide (sigOf E u % 2 ^ k ≠ 0))
  widest : isWidest E u = true → isWidest E x = true

section
variable {E : Env} {u x : Unum} {k : Nat} (h : Truncates E k u x)
include h

theorem Truncates.magRat_eq : magRat E u = magRat E x + (sigOf E u % 2 ^ k : Nat) * ulpOf E u := by
  have hdiv : ((sigOf E u : Nat) : ℚ) = (2 ^ k * (sigOf E u / 2 ^ k) + sigOf E u % 2 ^ k : Nat) := by
    rw [Nat.div_add_mod]
  rw [magRat_eq_sig, magRat_eq_sig, h.unit, h.sig, hdiv]
  push_cast
  ring

theorem Truncates.magRat_le : magRat E x ≤ magRat E u := by
  rw [h.magRat_eq]
  exact le_add_of_nonneg_right (mul_nonneg (Nat.cast_nonneg _) (ulpOf_pos E u).le)

/-- The next magnitude does not pass the next one of the larger unit. -/
theorem Truncates.next_le : magRat E u + ulpOf E u ≤ magRat E x + ulpOf E x := by
  have hmod : sigOf E u % 2 ^ k + 1 ≤ 2 ^ k := Nat.mod_lt _ (Nat.two_pow_pos k)
  have hcast : ((sigOf E u % 2 ^ k : Nat) : ℚ) + 1 ≤ 2 ^ k := by exact_mod_cast hmod
  have hscaled := mul_le_mul_of_nonneg_right hcast (ulpOf_pos E u).le
  rw [h.magRat_eq, h.unit]
  linarith

theorem Truncates.farNum_le : farNum E u ≤ farNum E x := by
  cases hx : isWidest E x
  · have hu : isWidest E u = false := by
      rw [Bool.eq_false_iff]
      exact fun hw => Bool.false_ne_true (hx.symm.trans (h.widest hw))
    rw [farNum, farNum, hu, hx, if_neg Bool.false_ne_true, if_neg Bool.false_ne_true]
    exact coe_rat_strictMono.monotone h.next_le
  · rw [farNum.eq_def E x, hx, if_pos rfl]
    exact OrderTop.le_top _

theorem Truncates.encloses (hx : isSpecial E x = false) (hu : isSpecial E u = false) :
    Machine.encloses (magInterval E x) (magInterval E u) = true := by
  have hubit := h.ubit
  cases hub : ubitOf E u
  case true =>
    rw [hub, Bool.true_or] at hubit
    exact encloses_magInterval_of_inexact hx hu hubit hub h.magRat_le h.farNum_le
  case false =>
    rw [hub, Bool.false_or] at hubit
    by_cases hmod : sigOf E u % 2 ^ k = 0
    · have hsame : magRat E x = magRat E u := by rw [h.magRat_eq, hmod, Nat.cast_zero, zero_mul, add_zero]
      exact encloses_magInterval_of_exact hx hu (hubit.trans (by simp [hmod])) hub hsame
    · have hlost : (0 : ℚ) < (sigOf E u % 2 ^ k : Nat) := by exact_mod_cast Nat.pos_of_ne_zero hmod
      have hless : magRat E x < magRat E u := by
        rw [h.magRat_eq]
        exact lt_add_of_pos_right _ (mul_pos hlost (ulpOf_pos E u))
      exact encloses_magInterval_of_inside hx hu (hubit.trans (by simp [hmod])) hub hless
        ((nearNum_lt_farNum E u).trans_le h.farNum_le)

end

/-! ### The demotions (41_tag.md R132, R133) -/

section
variable {E : Env} {u : Unum}

theorem sigOf_of_hasFields {x : Unum} {s ub : Bool} {e f es fs : Nat} (h : HasFields E x s e f ub es fs) :
    sigOf E x = if e = 0 then f else 2 ^ fs + f := by
  obtain ⟨-, rfl, rfl, -, -, rfl, -⟩ := h
  rfl

theorem ulpOf_of_hasFields {x : Unum} {s ub : Bool} {e f es fs : Nat} (h : HasFields E x s e f ub es fs) :
    ulpOf E x = ulpVal e es fs := by
  obtain ⟨-, rfl, -, -, rfl, rfl, -⟩ := h
  rfl

theorem isWidest_of_hasFields {x : Unum} {s ub : Bool} {es fs : Nat} (hmax : ¬ (es = E.esmax ∧ fs = E.fsmax))
    (h : HasFields E x s (2 ^ es - 1) (2 ^ fs - 1) ub es fs) : isWidest E x = true := by
  obtain ⟨-, he, hf, -, rfl, rfl, -⟩ := h
  rw [isWidest_iff, he, hf, if_neg hmax]
  exact ⟨rfl, rfl⟩

/-- Doubling the unit and halving the significand, the hidden bit with it. -/
theorem demf_truncates (h : demfStays E u = false) : Truncates E 1 u (demf E u) := by
  have hfields := demf_hasFields h
  have hpos := fsOf_pos E u
  have hfs1 : fsOf E u ≠ 1 := fun h1 => by simp [demfStays, h1] at h
  have hhidden : 2 ^ fsOf E u = 2 * 2 ^ (fsOf E u - 1) := by rw [← pow_succ', Nat.sub_add_cancel hpos]
  refine ⟨?unit, ?sig, ?ubit, fun hw => ?widest⟩
  case unit =>
    rw [ulpOf_of_hasFields hfields, ulpOf, ulpVal, ulpVal, ← zpow_natCast, ← zpow_add₀ two_ne_zero]
    congr 1
    omega
  case sig =>
    rw [sigOf_of_hasFields hfields, sigOf]
    split <;> omega
  case ubit =>
    obtain ⟨-, -, -, hubit, -⟩ := hfields
    rw [hubit, demfLost, sigOf]
    congr 1
    split <;> simp [hhidden, Nat.add_mod, beq_eq_decide]
  case widest =>
    obtain ⟨hexpo, hfrac⟩ := isWidest_iff.1 hw
    have hhalf : fracOf E u / 2 = 2 ^ (fsOf E u - 1) - 1 := by
      rw [hfrac]
      split <;> omega
    have hle := fsOf_le E u
    rw [hexpo, hhalf] at hfields
    exact isWidest_of_hasFields (by omega) hfields

/-- The bits an exponent demotion drops, below its saturating arm (41_tag.md R133). -/
def demeShift (e es : Nat) : Nat := if e = 0 then 2 ^ (es - 2) else 2 ^ (es - 2) + 1 - e

/-- The three arms of exponent demotion below the saturating one are one truncation. -/
theorem demePayload_truncates {e es : Nat} (f fs : Nat) (he : e < 3 * 2 ^ (es - 2)) :
    max ((demePayload e f es fs).e : Int) 1 = max (e : Int) 1 + demeShift e es - (2 ^ (es - 2) : Nat) ∧
    (if (demePayload e f es fs).e = 0 then (demePayload e f es fs).f else 2 ^ fs + (demePayload e f es fs).f) =
      (if e = 0 then f else 2 ^ fs + f) / 2 ^ demeShift e es ∧
    (demePayload e f es fs).lost = decide ((if e = 0 then f else 2 ^ fs + f) % 2 ^ demeShift e es ≠ 0) := by
  have hQ := Nat.two_pow_pos (es - 2)
  by_cases h0 : e = 0
  · rw [h0, demePayload_zero, demeShift]
    simp
  by_cases hsink : e ≤ 2 ^ (es - 2)
  · have hshift : demeShift e es = 2 ^ (es - 2) - e + 1 := by
      rw [demeShift, if_neg h0]
      omega
    rw [demePayload_sinking _ _ _ (by omega) hsink, hshift, if_neg h0, if_pos rfl]
    exact ⟨by dsimp only; omega, rfl, rfl⟩
  · have hshift : demeShift e es = 0 := by
      rw [demeShift, if_neg h0]
      omega
    have hexpo : e - 2 ^ (es - 2) ≠ 0 := by omega
    rw [demePayload_normal _ _ _ (by omega) he, hshift, if_neg h0, if_neg hexpo, pow_zero, Nat.div_one, Nat.mod_one]
    exact ⟨by dsimp only; omega, rfl, rfl⟩

theorem two_pow_eq_four_quarters {es : Nat} (hes : 2 ≤ es) : 2 ^ es = 4 * 2 ^ (es - 2) := by
  rw [show 4 = 2 ^ 2 by rfl, ← pow_add, Nat.add_sub_cancel' hes]

theorem bias_pred {es : Nat} (hes : 2 ≤ es) : bias es = bias (es - 1) + (2 ^ (es - 2) : Nat) := by
  obtain ⟨n, rfl⟩ := Nat.exists_eq_add_of_le' hes
  simp only [bias, Nat.add_sub_cancel, show n + 2 - 1 = n + 1 from rfl, pow_succ]
  push_cast
  ring

section
variable (h : demeStays E u = false)
include h

theorem two_le_esOf : 2 ≤ esOf E u := by
  have hpos := esOf_pos E u
  have hne := (demeStays_eq_false_iff.1 h).1
  omega

/-- Exponent demotion, below its saturating arm, drops the bits the narrower exponent has no place for. -/
theorem deme_truncates (he : expoOf E u < 3 * 2 ^ (esOf E u - 2)) :
    Truncates E (demeShift (expoOf E u) (esOf E u)) u (deme E u) := by
  have hfields := deme_hasFields h
  have hes := two_le_esOf h
  obtain ⟨hunit, hsig, hlost⟩ := demePayload_truncates (fracOf E u) (fsOf E u) he
  refine ⟨?unit, ?sig, ?ubit, fun hw => ?widest⟩
  case unit =>
    rw [ulpOf_of_hasFields hfields, ulpOf, ulpVal, ulpVal, demeOf, hunit, bias_pred hes, ← zpow_natCast,
      ← zpow_add₀ two_ne_zero]
    congr 1
    ring
  case sig => exact (sigOf_of_hasFields hfields).trans hsig
  case ubit =>
    obtain ⟨-, -, -, hubit, -⟩ := hfields
    rw [hubit, demeOf, hlost, sigOf]
  case widest =>
    have hQ := Nat.two_pow_pos (esOf E u - 2)
    have hall := two_pow_eq_four_quarters hes
    have hexpo := (isWidest_iff.1 hw).1
    omega

/-- The saturating arm gives the widest payload of a narrower exponent, an inexact one of smaller magnitude. -/
theorem deme_saturates (he : 3 * 2 ^ (esOf E u - 2) ≤ expoOf E u) :
    ubitOf E (deme E u) = true ∧ isWidest E (deme E u) = true ∧ magRat E (deme E u) < magRat E u := by
  have hes := two_le_esOf h
  have hle := esOf_le E u
  have hQ := Nat.two_pow_pos (esOf E u - 2)
  have hfields := deme_hasFields h
  rw [demeOf, demePayload_saturating _ _ _ he] at hfields
  dsimp only at hfields
  refine ⟨?ubit, isWidest_of_hasFields (by omega) hfields, ?less⟩
  case ubit =>
    obtain ⟨-, -, -, hubit, -⟩ := hfields
    rw [hubit, Bool.or_true]
  case less =>
    have hhalf : 2 ^ (esOf E u - 1) = 2 * 2 ^ (esOf E u - 2) := by
      rw [← pow_succ']
      congr 1
      omega
    have he0 : expoOf E u ≠ 0 := by omega
    have hsaturated : 2 ^ (esOf E u - 1) - 1 ≠ 0 := by omega
    have hF := Nat.two_pow_pos (fsOf E u)
    have hsig : sigOf E (deme E u) + 1 = 2 * 2 ^ fsOf E u := by
      rw [sigOf_of_hasFields hfields, if_neg hsaturated]
      omega
    have hsig' : 2 ^ fsOf E u ≤ sigOf E u := by
      rw [sigOf, if_neg he0]
      exact Nat.le_add_right _ _
    have hunit : 2 * ulpOf E (deme E u) ≤ ulpOf E u := by
      rw [ulpOf_of_hasFields hfields, ulpOf, ulpVal, ulpVal, bias_pred hes, ← zpow_one_add₀ two_ne_zero]
      refine zpow_le_zpow_right₀ one_le_two ?_
      omega
    have hcast : (sigOf E (deme E u) : ℚ) + 1 = 2 * 2 ^ fsOf E u := by exact_mod_cast hsig
    have hcast' : (2 : ℚ) ^ fsOf E u ≤ sigOf E u := by exact_mod_cast hsig'
    calc magRat E (deme E u) = sigOf E (deme E u) * ulpOf E (deme E u) := magRat_eq_sig E _
      _ < (2 * 2 ^ fsOf E u) * ulpOf E (deme E u) := by
          refine mul_lt_mul_of_pos_right ?_ (ulpOf_pos E _)
          linarith
      _ = 2 ^ fsOf E u * (2 * ulpOf E (deme E u)) := by ring
      _ ≤ sigOf E u * ulpOf E u :=
          mul_le_mul hcast' hunit (mul_nonneg zero_le_two (ulpOf_pos E _).le) (Nat.cast_nonneg _)
      _ = magRat E u := (magRat_eq_sig E u).symm

theorem isSpecial_deme : isSpecial E (deme E u) = false := by
  have hes := two_le_esOf h
  have hle := esOf_le E u
  obtain ⟨-, -, -, -, hes', -, -⟩ := deme_hasFields h
  exact isSpecial_eq_false_of_esOf (by omega)

end

theorem isSpecial_demf (h : demfStays E u = false) : isSpecial E (demf E u) = false := by
  have hle := fsOf_le E u
  have hpos := fsOf_pos E u
  obtain ⟨-, -, -, -, -, hfs, -⟩ := demf_hasFields h
  exact isSpecial_eq_false_of_fsOf (by omega)

variable (hsp : isSpecial E u = false)
include hsp

/-- The interval of a demoted fraction encloses the operand's. -/
theorem encloses_demf : encloses (u2g E (demf E u)) (u2g E u) = true := by
  cases h : demfStays E u
  · have hx := isSpecial_demf h
    obtain ⟨hsign, -⟩ := demf_hasFields h
    exact encloses_u2g_of_magInterval (isNan_eq_false_of_isSpecial hx) (isNan_eq_false_of_isSpecial hsp) hsign
      ((demf_truncates h).encloses hx hsp)
  · rw [demf, if_pos h]
    exact encloses_refl _

/-- The interval of a demoted exponent encloses the operand's. -/
theorem encloses_deme : encloses (u2g E (deme E u)) (u2g E u) = true := by
  cases h : demeStays E u
  · have hx := isSpecial_deme h
    obtain ⟨hsign, -⟩ := deme_hasFields h
    refine encloses_u2g_of_magInterval (isNan_eq_false_of_isSpecial hx) (isNan_eq_false_of_isSpecial hsp) hsign ?_
    obtain he | he := Nat.lt_or_ge (expoOf E u) (3 * 2 ^ (esOf E u - 2))
    · exact (deme_truncates h he).encloses hx hsp
    · obtain ⟨hub, hw, hless⟩ := deme_saturates h he
      have hfar : farNum E (deme E u) = ((⊤ : WithTop ℚ) : ExtNum) := if_pos hw
      cases hu : ubitOf E u
      · exact encloses_magInterval_of_inside hx hsp hub hu hless (hfar ▸ WithBot.coe_lt_coe.2 (WithTop.coe_lt_top _))
      · exact encloses_magInterval_of_inexact hx hsp hub hu hless.le (hfar ▸ OrderTop.le_top _)
  · rw [deme, if_pos h]
    exact encloses_refl _

theorem isSpecial_demf_of_number : isSpecial E (demf E u) = false := by
  cases h : demfStays E u
  · exact isSpecial_demf h
  · rwa [demf, if_pos h]

theorem isSpecial_deme_of_number : isSpecial E (deme E u) = false := by
  cases h : demeStays E u
  · exact isSpecial_deme h
  · rwa [deme, if_pos h]

end

/-- Settles O40. The interval of a demotion encloses the operand's, and enclosing is containing the elements. -/
theorem demotionEnclosesTheOperand : Obligations.DemotionEnclosesTheOperand := by
  unfold Obligations.DemotionEnclosesTheOperand
  intro E u _ hsp
  have hf := encloses_demf hsp
  have he := encloses_deme hsp
  have hnan {x : Unum} (hx : isSpecial E x = false) : (u2g E x).nan = false :=
    (u2g_nan E x).trans (isNan_eq_false_of_isSpecial hx)
  exact ⟨⟨hf, he⟩, fun x hx => ⟨.of_encloses (hnan (isSpecial_demf_of_number hsp)) (hnan hsp) hf hx,
    .of_encloses (hnan (isSpecial_deme_of_number hsp)) (hnan hsp) he hx⟩⟩

end Sys2Proof.Machine
end

section
/-! PROOF. Encoding a real is sound (42_pack.md R161, R162): the magnitude `r2u` gives is that of the number or lies
below it in the same sliver, and the magnitudes of finite unums are multiples of the smallest subnormal up to maxreal
with short significands; O45. -/

namespace Sys2Proof.Machine

/-! ### The magnitude `r2u` gives -/

/-- The unum's magnitude is `a`, or the unum is inexact and `a` lies strictly inside its interval. -/
structure EncodesMag (E : Env) (a : ℚ) (u : Unum) : Prop where
  exact : ubitOf E u = false → magRat E u = a
  near : ubitOf E u = true → magRat E u < a
  far : ubitOf E u = true → ((a : WithTop ℚ) : ExtNum) < farNum E u

section
variable {E : Env} {u : Unum} {a : ℚ}

theorem EncodesMag.of_exact (hub : ubitOf E u = false) (h : magRat E u = a) : EncodesMag E a u := by
  refine ⟨fun _ => h, fun h => ?_, fun h => ?_⟩ <;> exact absurd (hub.symm.trans h) Bool.false_ne_true

theorem EncodesMag.of_inexact (hub : ubitOf E u = true) (hnear : magRat E u < a)
    (hfar : a < magRat E u + ulpOf E u) : EncodesMag E a u := by
  refine ⟨fun h => absurd (h.symm.trans hub) Bool.false_ne_true, fun _ => hnear, fun _ => ?_⟩
  rw [farNum]
  split
  · exact WithBot.coe_lt_coe.2 (WithTop.coe_lt_top a)
  · exact coe_rat_strictMono hfar

theorem EncodesMag.of_widest (hub : ubitOf E u = true) (hnear : magRat E u < a) (hw : isWidest E u = true) :
    EncodesMag E a u := by
  refine ⟨fun h => absurd (h.symm.trans hub) Bool.false_ne_true, fun _ => hnear, fun _ => ?_⟩
  rw [farNum, if_pos hw]
  exact WithBot.coe_lt_coe.2 (WithTop.coe_lt_top a)

theorem magRat_of_hasFields {s ub : Bool} {e f es fs : Nat} (h : HasFields E u s e f ub es fs) :
    magRat E u = magVal e f es fs := by
  obtain ⟨-, rfl, rfl, -, rfl, rfl, -⟩ := h
  rfl

end

theorem bias_esmax (E : Env) : bias E.esmax = bigScale E - 1 := rfl

theorem one_le_fsmax (E : Env) : 1 ≤ E.fsmax := Nat.two_pow_pos _

/-- The unit of the last place of the maximum tag's subnormals is the smallest subnormal. -/
theorem ulpVal_subnormal_esmax (E : Env) (fs : Nat) : ulpVal 0 E.esmax fs = 2 ^ (2 - bigScale E - fs) := by
  rw [ulpVal, bias_esmax]
  congr 1
  omega

theorem magVal_subnormal (f es fs : Nat) : magVal 0 f es fs = f * ulpVal 0 es fs := by
  rw [magVal_eq_ulps, if_pos rfl]

/-- A normal's magnitude at the scale its biased exponent stands for. -/
theorem magVal_biased {es : Nat} {c : Int} (h : LeastSize es c) (f fs : Nat) :
    magVal (c + bias es).toNat f es fs = ((2 ^ fs + f : Nat) : ℚ) * 2 ^ (c - fs) := by
  obtain ⟨hpos, -, hcast⟩ := h.biased
  rw [magVal, if_neg hpos.ne', hcast, add_sub_cancel_right]

theorem maxreal_eq (E : Env) : (maxreal E).toRat = (2 ^ (E.fsmax + 1) - 2 : ℚ) * 2 ^ (bigScale E - E.fsmax) := by
  rw [maxreal_toRat, zpow_sub₀ two_ne_zero, zpow_sub₀ two_ne_zero, zpow_natCast, zpow_one, pow_succ]
  field_simp

section
variable {E : Env} {x : Dyad}

theorem encodesMag_of_gt_maxreal (h : (maxreal E).toRat < |x.toRat|) : EncodesMag E |x.toRat| (r2u E x) := by
  have hfields := r2u_hasFields_of_gt_maxreal h
  have hF := one_lt_two_pow_fsmax E
  have hem := one_lt_two_pow_esmax E
  have hE : 2 ^ E.esmax - 1 ≠ 0 := by omega
  have hvalue : magRat E (r2u E x) = (maxreal E).toRat := by
    have hsig : ((2 ^ E.fsmax + (2 ^ E.fsmax - 2) : Nat) : ℚ) = 2 ^ (E.fsmax + 1) - 2 := by
      rw [← Nat.add_sub_assoc (by omega), ← Nat.two_mul, ← pow_succ', Nat.cast_sub (by rw [pow_succ]; omega)]
      push_cast
      rfl
    have hscale : ((2 ^ E.esmax - 1 : Nat) : Int) - bias E.esmax = bigScale E := by
      have hsplit := Nat.two_pow_pred_mul_two (w := E.esmax) (Nat.two_pow_pos _)
      have hbig : bigScale E = ((2 ^ (E.esmax - 1) : Nat) : Int) := by simp [bigScale]
      rw [bias_esmax]
      omega
    rw [magRat_of_hasFields hfields, magVal, if_neg hE, hsig, hscale, maxreal_eq]
  obtain ⟨-, he, hf, hub, hes, hfs, -⟩ := hfields
  exact .of_widest hub (hvalue ▸ h) (isWidest_iff.2 ⟨by rw [he, hes], by rw [if_pos ⟨hes, hfs⟩, hf, hfs]⟩)

theorem encodesMag_of_lt_smallsub (hpos : 0 < |x.toRat|) (h : |x.toRat| < 2 ^ smallsubExp E) :
    EncodesMag E |x.toRat| (r2u E x) := by
  have hfields := r2u_hasFields_of_lt_smallsub hpos h
  have hzero : magRat E (r2u E x) = 0 := by
    rw [magRat_of_hasFields hfields, magVal_subnormal, Nat.cast_zero, zero_mul]
  have hulp : ulpOf E (r2u E x) = 2 ^ smallsubExp E := by
    rw [ulpOf_of_hasFields hfields, ulpVal_subnormal_esmax, smallsubExp]
  obtain ⟨-, -, -, hub, -⟩ := hfields
  exact .of_inexact hub (hzero ▸ hpos) (by rwa [hzero, hulp, zero_add])

theorem encodesMag_of_subnormal (hsub : 2 ^ smallsubExp E ≤ |x.toRat|) (h : |x.toRat| < 2 ^ (2 - bigScale E)) :
    EncodesMag E |x.toRat| (r2u E x) := by
  have hunit : (0 : ℚ) < 2 ^ smallsubExp E := by positivity
  by_cases hexact : (⌊|x.toRat| / 2 ^ smallsubExp E⌋₊ : ℚ) = |x.toRat| / 2 ^ smallsubExp E
  · obtain ⟨f, k, hf, hk, -, hfields⟩ := r2u_hasFields_of_exact_subnormal hsub h hexact
    have hulp : ulpVal 0 E.esmax (E.fsmax - k) = 2 ^ k * 2 ^ smallsubExp E := by
      rw [ulpVal_subnormal_esmax, ← zpow_natCast, ← zpow_add₀ two_ne_zero, smallsubExp]
      congr 1
      omega
    have hvalue : magRat E (r2u E x) = |x.toRat| := by
      rw [eq_div_iff hunit.ne', hf] at hexact
      rw [magRat_of_hasFields hfields, magVal_subnormal, hulp, ← hexact]
      push_cast
      ring
    obtain ⟨-, -, -, hub, -⟩ := hfields
    exact .of_exact hub hvalue
  · have hfields := r2u_hasFields_of_inexact_subnormal hsub h hexact
    have hulp : ulpOf E (r2u E x) = 2 ^ smallsubExp E := by
      rw [ulpOf_of_hasFields hfields, ulpVal_subnormal_esmax, smallsubExp]
    have hvalue : magRat E (r2u E x) = ⌊|x.toRat| / 2 ^ smallsubExp E⌋₊ * 2 ^ smallsubExp E := by
      rw [magRat_of_hasFields hfields, magVal_subnormal, ulpVal_subnormal_esmax, smallsubExp]
    obtain ⟨-, -, -, hub, -⟩ := hfields
    have hfloor := (Nat.floor_le (show 0 ≤ |x.toRat| / 2 ^ smallsubExp E by positivity)).lt_of_ne hexact
    have hceil := Nat.lt_floor_add_one (|x.toRat| / 2 ^ smallsubExp E)
    rw [lt_div_iff₀ hunit] at hfloor
    rw [div_lt_iff₀ hunit, add_mul, one_mul] at hceil
    exact .of_inexact hub (hvalue ▸ hfloor) (by rwa [hvalue, hulp])

section
variable (hnorm : 2 ^ (2 - bigScale E) ≤ |x.toRat|) (hmax : |x.toRat| ≤ (maxreal E).toRat)
include hnorm hmax

theorem encodesMag_of_power {k : Nat} (hone : x.norm.man.log2 = 0) (hpow : 1 - x.norm.scale = 2 ^ k)
    (hk : k ≤ E.esmax - 1) : EncodesMag E |x.toRat| (r2u E x) := by
  have hfields := r2u_hasFields_of_power hnorm hmax hone hpow hk
  have hodd := norm_odd_of_normal hnorm
  have hvalue : magRat E (r2u E x) = |x.toRat| := by
    have hscale : (max (0 : Nat) 1 : Int) - bias (k + 1) - (1 : Nat) = x.norm.scale := by
      rw [bias, Nat.add_sub_cancel, ← hpow]
      norm_num
    rw [magRat_of_hasFields hfields, magVal_subnormal, ulpVal, hscale, x.abs_toRat_eq_significand,
      (significand_eq_one_iff hodd).2 hone, Nat.cast_one]
  obtain ⟨-, -, -, hub, -⟩ := hfields
  exact .of_exact hub hvalue

theorem encodesMag_of_exact (hpow : x.norm.man.log2 ≠ 0 ∨ ∀ k : Nat, k ≤ E.esmax - 1 → 1 - x.norm.scale ≠ 2 ^ k)
    (hn : x.norm.man.log2 ≤ E.fsmax) : EncodesMag E |x.toRat| (r2u E x) := by
  have hes := esmin_leastSize (le_scale_of_normal hnorm) (scale_le_of_normal hnorm hmax)
  have hfields := r2u_hasFields_of_exact hnorm hmax hpow hn hes
  have hodd := norm_odd_of_normal hnorm
  have hlead : 2 ^ x.norm.man.log2 ≤ x.norm.man := Nat.log2_self_le (by omega)
  have hvalue : magRat E (r2u E x) = |x.toRat| := by
    obtain ⟨d, hd⟩ := Nat.exists_eq_add_of_le (le_max_left x.norm.man.log2 1)
    have hsig : 2 ^ max x.norm.man.log2 1 +
        (x.norm.man - 2 ^ x.norm.man.log2) * 2 ^ (max x.norm.man.log2 1 - x.norm.man.log2) = x.norm.man * 2 ^ d := by
      rw [hd, Nat.add_sub_cancel_left, pow_add, ← Nat.add_mul, Nat.add_sub_cancel' hlead]
    have hexp : x.norm.scale - (max x.norm.man.log2 1 : Nat) = x.norm.exp - d := by
      rw [hd, Dyad.scale]
      push_cast
      ring
    rw [magRat_of_hasFields hfields, magVal_biased hes, hsig, hexp, x.abs_toRat_norm, zpow_sub₀ two_ne_zero,
      zpow_natCast]
    push_cast
    field_simp
  obtain ⟨-, -, -, hub, -⟩ := hfields
  exact .of_exact hub hvalue

end

/-- The unum of the next payload is one unit of the last place further from zero. -/
theorem HasPayload.magRat_succ {u v : Unum} {s s' ub ub' : Bool} {p es fs : Nat} (hu : HasPayload E u s p ub es fs)
    (hv : HasPayload E v s' (p + 1) ub' es fs) : magRat E v = magRat E u + ulpOf E u := by
  have hpayload : payloadOf E v = payloadOf E u + 1 := by rw [hv.payload, hu.payload]
  have hes : esOf E v = esOf E u := hv.es.trans hu.es.symm
  have hfs : fsOf E v = fsOf E u := hv.fs.trans hu.fs.symm
  rw [magRat, expoOf_eq_payload_div, fracOf_eq_payload_mod, hpayload, hes, hfs, payloadOf, magVal_succ (fracOf_lt E u)]
  rfl

/-- The rounded significand and scale are one number with the significand rounded up. -/
theorem roundedSignificand_mul (m : Nat) (sc : Int) :
    (roundedSignificand E m : ℚ) * 2 ^ (roundedScale E m sc - E.fsmax) = roundedUp E m * 2 ^ (sc - E.fsmax) := by
  rw [roundedSignificand, roundedScale]
  split
  next hup =>
    have hscale : sc + 1 - E.fsmax = 1 + (sc - E.fsmax) := by ring
    rw [hup, hscale, zpow_add₀ two_ne_zero, zpow_one, pow_succ]
    push_cast
    ring
  next => rfl

section
variable {m : Nat} (hodd : m % 2 = 1) (hn : E.fsmax < m.log2)
include hodd hn

/-- A significand with more bits than the fraction holds is rounded strictly up, by less than one. -/
theorem roundedUp_strict :
    (m : ℚ) / 2 ^ m.log2 * 2 ^ E.fsmax < roundedUp E m ∧
      (roundedUp E m : ℚ) < (m : ℚ) / 2 ^ m.log2 * 2 ^ E.fsmax + 1 := by
  refine ⟨(Nat.le_ceil _).lt_of_ne fun heq => ?_, Nat.ceil_lt_add_one (by positivity)⟩
  exact hn.not_ge (log2_le_of_significand_mul hodd heq)

theorem roundedUp_gt : 2 ^ E.fsmax < roundedUp E m := by
  have hone : (1 : ℚ) ≤ (m : ℚ) / 2 ^ m.log2 := one_le_significand (by omega)
  have hlt :=
    (le_mul_of_one_le_left (show (0 : ℚ) ≤ 2 ^ E.fsmax by positivity) hone).trans_lt (roundedUp_strict hodd hn).1
  exact_mod_cast hlt

/-- Stepping back from the rounded number, the unit of the last place is at least that of the number's own scale: only
a significand rounded up to 2 steps back into a lower binade. -/
theorem le_ulpOf_stepBelow {u : Unum} {s : Bool} {p es : Nat} {sc : Int} (hes : LeastSize es (roundedScale E m sc))
    (hu : HasPayload E u s p true es E.fsmax)
    (hp : p + 1 = (roundedScale E m sc + bias es).toNat * 2 ^ E.fsmax + (roundedSignificand E m - 2 ^ E.fsmax)) :
    2 ^ (sc - E.fsmax) ≤ ulpOf E u := by
  obtain ⟨hpos, -, hcast⟩ := hes.biased
  have hgt := roundedUp_gt hodd hn
  have hexpo : expoOf E u = p / 2 ^ E.fsmax := by rw [expoOf_eq_payload_div, hu.payload, hu.fs]
  have hmax : (expoOf E u : Int) ≤ max (expoOf E u : Int) 1 := le_max_left _ _
  rw [ulpOf, ulpVal, hu.es, hu.fs]
  refine zpow_le_zpow_right₀ one_le_two ?_
  have hfull := Nat.two_pow_pos E.fsmax
  by_cases hup : roundedUp E m = 2 ^ (E.fsmax + 1)
  · have hscale : roundedScale E m sc = sc + 1 := if_pos hup
    have hsig : roundedSignificand E m = 2 ^ E.fsmax := if_pos hup
    have hle : (roundedScale E m sc + bias es).toNat ≤ expoOf E u + 1 := by
      rw [hsig, Nat.sub_self] at hp
      rw [hexpo, ← Nat.add_div_right _ hfull, Nat.le_div_iff_mul_le hfull]
      omega
    omega
  · have hscale : roundedScale E m sc = sc := if_neg hup
    have hsig : roundedSignificand E m = roundedUp E m := if_neg hup
    have hle : (roundedScale E m sc + bias es).toNat ≤ expoOf E u := by
      rw [hexpo, Nat.le_div_iff_mul_le hfull]
      omega
    omega

end

theorem encodesMag_of_rounded (hnorm : 2 ^ (2 - bigScale E) ≤ |x.toRat|) (hmax : |x.toRat| ≤ (maxreal E).toRat)
    (hn : E.fsmax < x.norm.man.log2) : EncodesMag E |x.toRat| (r2u E x) := by
  obtain ⟨hlo, hhi⟩ := roundedScale_range hnorm hmax
  have hes := esmin_leastSize hlo hhi
  have hodd := norm_odd_of_normal hnorm
  obtain ⟨v, hfields, hstep⟩ := r2u_eq_stepBelow_of_inexact hnorm hmax hn hes
  obtain ⟨hpos, -, -⟩ := hes.biased
  have hv := HasPayload.of_hasFields hfields
  obtain ⟨p, hp⟩ := Nat.exists_eq_add_of_le' (Nat.add_pos_left (Nat.mul_pos hpos (Nat.two_pow_pos E.fsmax))
    (roundedSignificand E x.norm.man - 2 ^ E.fsmax))
  rw [hp] at hv
  have hu := hv.stepBelow x.isNeg
  rw [← hstep] at hu
  have hunit : (0 : ℚ) < 2 ^ (x.norm.scale - E.fsmax) := by positivity
  have hsig : 2 ^ E.fsmax ≤ roundedSignificand E x.norm.man := by
    have hgt := roundedUp_gt hodd hn
    rw [roundedSignificand]
    split <;> omega
  have hrounded : magRat E v = roundedUp E x.norm.man * 2 ^ (x.norm.scale - E.fsmax) := by
    rw [magRat_of_hasFields hfields, magVal_biased hes, Nat.add_sub_cancel' hsig, roundedSignificand_mul]
  have hvalue : |x.toRat| = (x.norm.man : ℚ) / 2 ^ x.norm.man.log2 * 2 ^ E.fsmax * 2 ^ (x.norm.scale - E.fsmax) := by
    rw [mul_assoc, ← zpow_natCast 2 E.fsmax, ← zpow_add₀ two_ne_zero, add_sub_cancel]
    exact x.abs_toRat_eq_significand
  have hnext := hu.magRat_succ hv
  have hulp := le_ulpOf_stepBelow hodd hn hes hu hp.symm
  obtain ⟨hup, hdown⟩ := roundedUp_strict (E := E) hodd hn
  have hup' := mul_lt_mul_of_pos_right hup hunit
  have hdown' := mul_lt_mul_of_pos_right hdown hunit
  rw [← hvalue, ← hrounded] at hup'
  rw [add_mul, one_mul, ← hvalue, ← hrounded] at hdown'
  exact .of_inexact hu.ubit (by linarith) (by linarith)

end

/-- What `r2u` gives encodes the magnitude of the number, exactly or by a sliver around it. -/
theorem r2u_encodesMag (E : Env) (x : Dyad) : EncodesMag E |x.toRat| (r2u E x) := by
  obtain hzero | hpos := (abs_nonneg x.toRat).eq_or_lt
  · have hfields := zeroPattern_hasFields E
    have hr2u : r2u E x = mk E false 0 0 false 1 1 := (r2u_of_zero hzero.symm).trans (by simp [mk])
    have hvalue : magRat E (r2u E x) = |x.toRat| := by
      rw [hr2u, magRat_of_hasFields hfields, magVal_subnormal, Nat.cast_zero, zero_mul, hzero]
    obtain ⟨-, -, -, hub, -⟩ := hfields
    exact .of_exact (hr2u ▸ hub) hvalue
  obtain hgt | hmax := lt_or_ge (maxreal E).toRat |x.toRat|
  · exact encodesMag_of_gt_maxreal hgt
  obtain hlt | hsub := lt_or_ge |x.toRat| (2 ^ smallsubExp E)
  · exact encodesMag_of_lt_smallsub hpos hlt
  obtain hlt | hnorm := lt_or_ge |x.toRat| (2 ^ (2 - bigScale E))
  · exact encodesMag_of_subnormal hsub hlt
  obtain hn | hn := Nat.lt_or_ge E.fsmax x.norm.man.log2
  · exact encodesMag_of_rounded hnorm hmax hn
  by_cases hpow : x.norm.man.log2 ≠ 0 ∨ ∀ k : Nat, k ≤ E.esmax - 1 → 1 - x.norm.scale ≠ 2 ^ k
  · exact encodesMag_of_exact hnorm hmax hpow hn
  · push Not at hpow
    obtain ⟨hone, k, hk, heq⟩ := hpow
    exact encodesMag_of_power hnorm hmax hone heq hk

/-! ### The sign (42_pack.md R162 (c)) -/

/-- Two numbers of one magnitude have normalised encodings that differ in the sign only. -/
theorem Dyad.norm_abs_eq_of_abs_toRat_eq {x y : Dyad} (h : |x.toRat| = |y.toRat|) : x.norm.abs = y.norm.abs := by
  have habs (z : Dyad) : z.norm.abs = z.abs.norm := by
    by_cases hz : z.man = 0 <;> simp [Dyad.norm, Dyad.abs, Dyad.zero, hz]
  have htoRat (z : Dyad) : z.abs.toRat = |z.toRat| := by
    rw [Dyad.abs, Dyad.toRat_of_nonneg, Dyad.abs_toRat]
  rw [habs, habs]
  exact Dyad.norm_eq_of_toRat_eq (by rw [htoRat, htoRat, h])

/-- How far zeros are stripped is determined. -/
theorem stripped_le {n f k f' k' : Nat} (h : f * 2 ^ k = f' * 2 ^ k') (hend : f % 2 = 1 ∨ k + 1 = n) (hk' : k' < n) :
    k' ≤ k := by
  by_contra hlt
  obtain ⟨d, rfl⟩ := Nat.exists_eq_add_of_lt (Nat.lt_of_not_le hlt)
  have hf : f = f' * 2 ^ d * 2 := by
    refine Nat.eq_of_mul_eq_mul_right (Nat.two_pow_pos k) (h.trans ?_)
    ring
  omega

theorem stripped_unique {n f k f' k' : Nat} (h : f * 2 ^ k = f' * 2 ^ k') (hk : k < n) (hk' : k' < n)
    (hend : f % 2 = 1 ∨ k + 1 = n) (hend' : f' % 2 = 1 ∨ k' + 1 = n) : f = f' ∧ k = k' := by
  obtain rfl := le_antisymm (stripped_le h.symm hend' hk) (stripped_le h hend hk')
  exact ⟨Nat.eq_of_mul_eq_mul_right (Nat.two_pow_pos k) h, rfl⟩

/-- The unums of `x` and `y` have the signs of the numbers, and all else in common. -/
def AgreeButSign (E : Env) (x y : Dyad) : Prop :=
  ∃ p ub es fs, HasPayload E (r2u E x) x.isNeg p ub es fs ∧ HasPayload E (r2u E y) y.isNeg p ub es fs

theorem AgreeButSign.of_hasFields {E : Env} {x y : Dyad} {e f es fs : Nat} {ub : Bool}
    (hx : HasFields E (r2u E x) x.isNeg e f ub es fs) (hy : HasFields E (r2u E y) y.isNeg e f ub es fs) :
    AgreeButSign E x y := ⟨_, _, _, _, .of_hasFields hx, .of_hasFields hy⟩

section
variable {E : Env} {x y : Dyad} (h : |x.toRat| = |y.toRat|)
include h

theorem agreeButSign_of_zero (hzero : |x.toRat| = 0) : AgreeButSign E x y := by
  have hfields := zeroPattern_hasFields E
  have hr2u {z : Dyad} (hz : |z.toRat| = 0) : HasFields E (r2u E z) z.isNeg 0 0 false 1 1 := by
    have hzeroUnum : r2u E z = mk E false 0 0 false 1 1 := (r2u_of_zero hz).trans (by simp [mk])
    have hneg : z.isNeg = false := Dyad.isNeg_eq_false_of_nonneg (abs_eq_zero.1 hz).ge
    rwa [hzeroUnum, hneg]
  exact .of_hasFields (hr2u hzero) (hr2u (h ▸ hzero))

theorem agreeButSign_of_subnormal (hsub : 2 ^ smallsubExp E ≤ |x.toRat|) (hlt : |x.toRat| < 2 ^ (2 - bigScale E)) :
    AgreeButSign E x y := by
  have hsub' := hsub
  have hlt' := hlt
  rw [h] at hsub' hlt'
  by_cases hexact : (⌊|x.toRat| / 2 ^ smallsubExp E⌋₊ : ℚ) = |x.toRat| / 2 ^ smallsubExp E
  · have hexact' := hexact
    rw [h] at hexact'
    obtain ⟨f, k, hf, hk, hend, hx⟩ := r2u_hasFields_of_exact_subnormal hsub hlt hexact
    obtain ⟨f', k', hf', hk', hend', hy⟩ := r2u_hasFields_of_exact_subnormal hsub' hlt' hexact'
    obtain ⟨rfl, rfl⟩ := stripped_unique (by rw [← hf, ← hf', h]) hk hk' hend hend'
    exact .of_hasFields hx hy
  · have hexact' := hexact
    rw [h] at hexact'
    have hy := r2u_hasFields_of_inexact_subnormal hsub' hlt' hexact'
    rw [← h] at hy
    exact .of_hasFields (r2u_hasFields_of_inexact_subnormal hsub hlt hexact) hy

theorem agreeButSign_of_normal (hnorm : 2 ^ (2 - bigScale E) ≤ |x.toRat|) (hmax : |x.toRat| ≤ (maxreal E).toRat) :
    AgreeButSign E x y := by
  have hnorm' := hnorm
  have hmax' := hmax
  rw [h] at hnorm' hmax'
  have habs := Dyad.norm_abs_eq_of_abs_toRat_eq h
  have hman : x.norm.man = y.norm.man := congrArg (·.man) habs
  have hexp : x.norm.exp = y.norm.exp := congrArg (·.exp) habs
  have hscale : x.norm.scale = y.norm.scale := by rw [Dyad.scale, Dyad.scale, hman, hexp]
  obtain hn | hn := Nat.lt_or_ge E.fsmax x.norm.man.log2
  · obtain ⟨hlo, hhi⟩ := roundedScale_range hnorm hmax
    have hes := esmin_leastSize hlo hhi
    obtain ⟨hpos, -, -⟩ := hes.biased
    obtain ⟨v, hv, hx⟩ := r2u_eq_stepBelow_of_inexact hnorm hmax hn hes
    rw [hman] at hn
    rw [hman, hscale] at hes
    obtain ⟨v', hv', hy⟩ := r2u_eq_stepBelow_of_inexact hnorm' hmax' hn hes
    rw [← hman, ← hscale] at hv'
    obtain rfl := hasFields_unique hv hv'
    have hpayload := HasPayload.of_hasFields hv
    obtain ⟨p, hp⟩ := Nat.exists_eq_add_of_le' (Nat.add_pos_left (Nat.mul_pos hpos (Nat.two_pow_pos E.fsmax))
      (roundedSignificand E x.norm.man - 2 ^ E.fsmax))
    rw [hp] at hpayload
    rw [AgreeButSign, hx, hy]
    exact ⟨_, _, _, _, hpayload.stepBelow _, hpayload.stepBelow _⟩
  by_cases hpow : x.norm.man.log2 ≠ 0 ∨ ∀ k : Nat, k ≤ E.esmax - 1 → 1 - x.norm.scale ≠ 2 ^ k
  · have hes := esmin_leastSize (le_scale_of_normal hnorm) (scale_le_of_normal hnorm hmax)
    have hx := r2u_hasFields_of_exact hnorm hmax hpow hn hes
    rw [hman] at hx hpow hn
    rw [hscale] at hx hpow hes
    exact .of_hasFields hx (r2u_hasFields_of_exact hnorm' hmax' hpow hn hes)
  · push Not at hpow
    obtain ⟨hone, k, hk, heq⟩ := hpow
    have hx := r2u_hasFields_of_power hnorm hmax hone heq hk
    rw [hman] at hone
    rw [hscale] at heq
    exact .of_hasFields hx (r2u_hasFields_of_power hnorm' hmax' hone heq hk)

/-- The unums of two numbers of one magnitude differ in the sign bit only. -/
theorem agreeButSign_of_abs_eq : AgreeButSign E x y := by
  obtain hzero | hpos := (abs_nonneg x.toRat).eq_or_lt
  · exact agreeButSign_of_zero h hzero.symm
  obtain hgt | hmax := lt_or_ge (maxreal E).toRat |x.toRat|
  · exact .of_hasFields (r2u_hasFields_of_gt_maxreal hgt) (r2u_hasFields_of_gt_maxreal (h ▸ hgt))
  obtain hlt | hsub := lt_or_ge |x.toRat| (2 ^ smallsubExp E)
  · exact .of_hasFields (r2u_hasFields_of_lt_smallsub hpos hlt) (r2u_hasFields_of_lt_smallsub (h ▸ hpos) (h ▸ hlt))
  obtain hlt | hnorm := lt_or_ge |x.toRat| (2 ^ (2 - bigScale E))
  · exact agreeButSign_of_subnormal h hsub hlt
  · exact agreeButSign_of_normal h hnorm hmax

end

/-- The unum of the negated number has the sign bit set and all else the same. -/
theorem r2u_neg (E : Env) {x : Dyad} (hsg : x.sg = false) (hman : x.man ≠ 0) : r2u E x.neg = setSign E (r2u E x) := by
  have habs : |x.toRat| = |x.neg.toRat| := by rw [Dyad.toRat_neg, abs_neg]
  obtain ⟨p, ub, es, fs, hx, hneg⟩ := agreeButSign_of_abs_eq (E := E) habs
  have hpos : x.isNeg = false := by simp [Dyad.isNeg, hsg]
  have hneg' : x.neg.isNeg = true := by simp [Dyad.isNeg, Dyad.neg, hsg, hman]
  rw [hpos] at hx
  rw [hneg'] at hneg
  rw [hneg.eq_ofPayload, hx.setSign.eq_ofPayload]

/-! ### The magnitudes of finite unums (42_pack.md R162 (b)) -/

section
variable {E : Env} {u : Unum}

theorem sigOf_lt (E : Env) (u : Unum) : sigOf E u < 2 ^ (fsOf E u + 1) := by
  have hf := fracOf_lt E u
  rw [sigOf, pow_succ]
  split <;> omega

/-- No unum has a unit of the last place below the smallest subnormal. -/
theorem exists_ulpOf_eq (E : Env) (u : Unum) : ∃ k : Nat, ulpOf E u = 2 ^ k * 2 ^ smallsubExp E := by
  have hfs := fsOf_le E u
  have hbias : bias (esOf E u) ≤ bigScale E - 1 := by
    have hpow : (2 : Int) ^ (esOf E u - 1) ≤ 2 ^ (E.esmax - 1) :=
      pow_le_pow_right₀ one_le_two (Nat.sub_le_sub_right (esOf_le E u) 1)
    rw [bias, bigScale]
    omega
  obtain ⟨k, hk⟩ : ∃ k : Nat, (max (expoOf E u : Int) 1 - bias (esOf E u) - fsOf E u) - smallsubExp E = k :=
    Int.eq_ofNat_of_zero_le (by rw [smallsubExp]; omega)
  refine ⟨k, ?_⟩
  rw [ulpOf, ulpVal, ← zpow_natCast, ← zpow_add₀ two_ne_zero, ← hk]
  congr 1
  ring

/-- A finite unum's magnitude is a multiple of the smallest subnormal. -/
theorem exists_magRat_eq (E : Env) (u : Unum) : ∃ n : Nat, magRat E u = n * 2 ^ smallsubExp E := by
  obtain ⟨k, hk⟩ := exists_ulpOf_eq E u
  refine ⟨sigOf E u * 2 ^ k, ?_⟩
  rw [magRat_eq_sig, hk]
  push_cast
  ring

theorem two_zpow_bigScale_le_maxreal (E : Env) : 2 ^ bigScale E ≤ (maxreal E).toRat := by
  have hfm := one_le_fsmax E
  have hulp : (2 : ℚ) ^ (1 - (E.fsmax : Int)) ≤ 1 := zpow_le_one_of_nonpos₀ one_le_two (by omega)
  rw [maxreal_toRat]
  exact le_mul_of_one_le_right (by positivity) (by linarith)

/-- The magnitude's power of two; a subnormal has no hidden bit, so it keeps within its own. -/
theorem magRat_lt (E : Env) (u : Unum) : magRat E u < 2 ^ ((expoOf E u : Int) - bias (esOf E u) + 1) := by
  rw [magRat, magVal]
  by_cases he : expoOf E u = 0
  · have hf : (fracOf E u : ℚ) < 2 ^ fsOf E u := by exact_mod_cast fracOf_lt E u
    have hexp : ((expoOf E u : Int) - bias (esOf E u) + 1) = fsOf E u + (1 - bias (esOf E u) - fsOf E u) := by
      rw [he]
      push_cast
      ring
    rw [if_pos he, hexp, zpow_add₀ two_ne_zero, zpow_natCast]
    exact mul_lt_mul_of_pos_right hf (by positivity)
  · have hf : ((2 ^ fsOf E u + fracOf E u : Nat) : ℚ) < 2 ^ (fsOf E u + 1) := by
      have hlt := fracOf_lt E u
      exact_mod_cast (by rw [pow_succ]; omega : 2 ^ fsOf E u + fracOf E u < 2 ^ (fsOf E u + 1))
    have hexp : ((expoOf E u : Int) - bias (esOf E u) + 1) =
        (fsOf E u + 1 : Nat) + (expoOf E u - bias (esOf E u) - fsOf E u) := by push_cast; ring
    rw [if_neg he, hexp, zpow_add₀ two_ne_zero, zpow_natCast]
    exact mul_lt_mul_of_pos_right hf (by positivity)

/-- At the greatest scale a finite unum's significand, in units of the full fraction width, is at most that of
maxreal. -/
theorem sigOf_shifted_le (hsp : isSpecial E u = false) (hes : esOf E u = E.esmax)
    (he : expoOf E u = 2 ^ E.esmax - 1) : sigOf E u * 2 ^ (E.fsmax - fsOf E u) ≤ 2 ^ (E.fsmax + 1) - 2 := by
  have hlt := sigOf_lt E u
  have hpow : 2 ^ (fsOf E u + 1) * 2 ^ (E.fsmax - fsOf E u) = 2 ^ (E.fsmax + 1) := by
    rw [← pow_add]
    congr 1
    have := fsOf_le E u
    omega
  obtain hfs | hfs := (fsOf_le E u).lt_or_eq
  · have htwo : 2 ≤ 2 ^ (E.fsmax - fsOf E u) := Nat.le_self_pow (by omega) 2
    have hmul := Nat.mul_le_mul_right (2 ^ (E.fsmax - fsOf E u)) (Nat.succ_le_of_lt hlt)
    rw [Nat.succ_mul, hpow] at hmul
    omega
  · have hE := one_lt_two_pow_esmax E
    have hf := fracOf_lt E u
    have hne : fracOf E u ≠ 2 ^ E.fsmax - 1 := fun hf =>
      Bool.false_ne_true (hsp.symm.trans (isSpecial_iff.2 ⟨hes, hfs, by rw [he, hes], by rw [hf, hfs]⟩))
    have he0 : expoOf E u ≠ 0 := by omega
    rw [hfs] at hf
    rw [hfs, Nat.sub_self, pow_zero, Nat.mul_one, sigOf, if_neg he0, hfs, pow_succ]
    omega

/-- The magnitude of a unum that is no infinity and no NaN is at most maxreal. -/
theorem magRat_le_maxreal (hsp : isSpecial E u = false) : magRat E u ≤ (maxreal E).toRat := by
  have hexpo := expoOf_lt E u
  have hpos := esOf_pos E u
  have hle := esOf_le E u
  have hbig : bigScale E = ((2 ^ (E.esmax - 1) : Nat) : Int) := by simp [bigScale]
  have hbias := bias_eq (esOf E u)
  have hsplit := Nat.two_pow_pred_mul_two hpos
  by_cases htop : esOf E u = E.esmax ∧ expoOf E u = 2 ^ E.esmax - 1
  · obtain ⟨hes, he⟩ := htop
    have hscale : max (expoOf E u : Int) 1 - bias (esOf E u) = bigScale E := by
      rw [hes] at hsplit hbias hexpo ⊢
      omega
    have hunit : ulpOf E u = 2 ^ (E.fsmax - fsOf E u) * 2 ^ (bigScale E - E.fsmax) := by
      have hfs := fsOf_le E u
      rw [ulpOf, ulpVal, hscale, ← zpow_natCast, ← zpow_add₀ two_ne_zero]
      congr 1
      omega
    have hsig := sigOf_shifted_le hsp hes he
    have htwo : 2 ≤ 2 ^ (E.fsmax + 1) := Nat.le_self_pow (Nat.succ_ne_zero _) 2
    have hcast : (sigOf E u : ℚ) * 2 ^ (E.fsmax - fsOf E u) ≤ 2 ^ (E.fsmax + 1) - 2 := by
      have hnat : sigOf E u * 2 ^ (E.fsmax - fsOf E u) + 2 ≤ 2 ^ (E.fsmax + 1) := by omega
      rw [le_sub_iff_add_le]
      exact_mod_cast hnat
    rw [magRat_eq_sig, hunit, maxreal_eq, ← mul_assoc]
    exact mul_le_mul_of_nonneg_right hcast (by positivity)
  · have hscale : (expoOf E u : Int) - bias (esOf E u) + 1 ≤ bigScale E := by
      obtain hlt | heq := hle.lt_or_eq
      · have hdouble : 2 * 2 ^ (esOf E u - 1) ≤ 2 ^ (E.esmax - 1) := by
          rw [← pow_succ']
          exact Nat.pow_le_pow_right two_pos (by omega)
        have hone := Nat.two_pow_pos (esOf E u - 1)
        omega
      · have hne : expoOf E u ≠ 2 ^ E.esmax - 1 := fun he => htop ⟨heq, he⟩
        have hone := Nat.two_pow_pos (esOf E u - 1)
        rw [heq] at hbias hsplit hexpo hone ⊢
        omega
    exact (magRat_lt E u).le.trans
      ((zpow_le_zpow_right₀ one_le_two hscale).trans (two_zpow_bigScale_le_maxreal E))

end

/-- A number some finite unum's magnitude is has a short odd significand. -/
theorem log2_man_le_of_magRat {E : Env} {u : Unum} {x : Dyad} (h : |x.toRat| = magRat E u) (hpos : 0 < |x.toRat|) :
    x.norm.man.log2 ≤ E.fsmax := by
  obtain ⟨m, hm⟩ : ∃ m : Dyad, m = ⟨false, sigOf E u, max (expoOf E u : Int) 1 - bias (esOf E u) - fsOf E u⟩ :=
    ⟨_, rfl⟩
  have hvalue : m.toRat = magRat E u := by rw [hm, Dyad.toRat_of_nonneg, magRat_eq_sig, ulpOf, ulpVal]
  have hman : m.norm.man = x.norm.man :=
    congrArg (·.man) (Dyad.norm_abs_eq_of_abs_toRat_eq (by rw [hvalue, ← h, abs_abs]))
  have hne : m.man ≠ 0 := fun hz => by
    rw [h, ← hvalue, Dyad.toRat_eq_zero_iff.2 hz] at hpos
    exact lt_irrefl _ hpos
  obtain ⟨j, hj, -⟩ := Dyad.norm_spec hne
  have hsig : m.man < 2 ^ (fsOf E u + 1) := by rw [hm]; exact sigOf_lt E u
  have hle : x.norm.man ≤ m.man := by
    rw [← hman, hj]
    exact Nat.le_mul_of_pos_right _ (Nat.two_pow_pos j)
  have hfs := fsOf_le E u
  obtain hz | hz := Nat.eq_zero_or_pos x.norm.man
  · rw [hz]
    exact Nat.zero_le _
  · have hlog := (Nat.log2_lt hz.ne').2 (hle.trans_lt hsig)
    omega

/-- A number some finite unum's magnitude is, `r2u` encodes exactly. -/
theorem r2u_exact_of_magRat {E : Env} {u : Unum} {x : Dyad} (hsp : isSpecial E u = false) (h : |x.toRat| = magRat E u) :
    ubitOf E (r2u E x) = false := by
  have hunit : (0 : ℚ) < 2 ^ smallsubExp E := by positivity
  obtain ⟨n, hn⟩ := exists_magRat_eq E u
  obtain hzero | hpos := (abs_nonneg x.toRat).eq_or_lt
  · have hfields := zeroPattern_hasFields E
    have hr2u : r2u E x = mk E false 0 0 false 1 1 := (r2u_of_zero hzero.symm).trans (by simp [mk])
    obtain ⟨-, -, -, hub, -⟩ := hfields
    rw [hr2u, hub]
  have hmax : |x.toRat| ≤ (maxreal E).toRat := h ▸ magRat_le_maxreal hsp
  have hsub : 2 ^ smallsubExp E ≤ |x.toRat| := by
    have hn1 : 1 ≤ n := Nat.pos_of_ne_zero fun hz => by
      rw [h, hn, hz, Nat.cast_zero, zero_mul] at hpos
      exact lt_irrefl _ hpos
    rw [h, hn]
    exact le_mul_of_one_le_left hunit.le (by exact_mod_cast hn1)
  obtain hlt | hnorm := lt_or_ge |x.toRat| (2 ^ (2 - bigScale E))
  · have hexact : (⌊|x.toRat| / 2 ^ smallsubExp E⌋₊ : ℚ) = |x.toRat| / 2 ^ smallsubExp E := by
      rw [h, hn, mul_div_assoc, div_self hunit.ne', mul_one, Nat.floor_natCast]
    obtain ⟨f, k, -, -, -, hfields⟩ := r2u_hasFields_of_exact_subnormal hsub hlt hexact
    obtain ⟨-, -, -, hub, -⟩ := hfields
    exact hub
  have hbits := log2_man_le_of_magRat h hpos
  by_cases hpow : x.norm.man.log2 ≠ 0 ∨ ∀ k : Nat, k ≤ E.esmax - 1 → 1 - x.norm.scale ≠ 2 ^ k
  · have hes := esmin_leastSize (le_scale_of_normal hnorm) (scale_le_of_normal hnorm hmax)
    obtain ⟨-, -, -, hub, -⟩ := r2u_hasFields_of_exact hnorm hmax hpow hbits hes
    exact hub
  · push Not at hpow
    obtain ⟨hone, k, hk, heq⟩ := hpow
    obtain ⟨-, -, -, hub, -⟩ := r2u_hasFields_of_power hnorm hmax hone heq hk
    exact hub

/-! ### The obligation -/

section
variable {E : Env}

theorem signed_abs (x : Dyad) : (if x.isNeg then -1 else 1) * |x.toRat| = x.toRat := by
  cases hneg : x.isNeg
  · have hnonneg : 0 ≤ x.toRat := not_lt.1 fun h => Bool.false_ne_true (hneg.symm.trans (Dyad.isNeg_iff.2 h))
    rw [if_neg Bool.false_ne_true, one_mul, abs_of_nonneg hnonneg]
  · rw [if_pos rfl, abs_of_neg (Dyad.isNeg_iff.1 hneg), neg_one_mul, neg_neg]

/-- An exact encoding has the number's value (42_pack.md R162 (a)). -/
theorem u2r_r2u_toRat {x : Dyad} (hub : ubitOf E (r2u E x) = false) : (u2r E (r2u E x)).val.toRat = x.toRat := by
  have hreal := r2u_realUnum E x
  rw [u2r_val_toRat hreal.notSpecial, hreal.sign, (r2u_encodesMag E x).exact hub, signed_abs]

/-- An inexact encoding is a sliver with the number strictly inside (42_pack.md R162 (a)). -/
theorem u2g_r2u_holds {x : Dyad} (hub : ubitOf E (r2u E x) = true) :
    (u2g E (r2u E x)).Holds ((x.toRat : WithTop ℚ) : ExtNum) := by
  have hreal := r2u_realUnum E x
  have hnear : nearNum E (r2u E x) < (((|x.toRat| : ℚ) : WithTop ℚ) : ExtNum) :=
    coe_rat_strictMono ((r2u_encodesMag E x).near hub)
  have hfar := (r2u_encodesMag E x).far hub
  obtain ⟨hnan, hlopn, hropn, hl, hr⟩ := u2g_isSliver hreal.notSpecial hub
  have hx := signed_abs x
  rw [hreal.sign] at hl hr
  rw [Gbnd.Holds, hlopn, hropn, if_pos rfl, if_pos rfl, hl, hr]
  cases hneg : x.isNeg
  · rw [hneg, if_neg Bool.false_ne_true, one_mul] at hx
    rw [if_neg Bool.false_ne_true, if_neg Bool.false_ne_true, ← hx]
    exact ⟨hnan, hnear, hfar⟩
  · rw [hneg, if_pos rfl, neg_one_mul] at hx
    rw [if_pos rfl, if_pos rfl, ← hx, ← mirror_rat]
    exact ⟨hnan, mirror_lt_mirror.2 hfar, mirror_lt_mirror.2 hnear⟩

theorem u2r_eq_fin {u : Unum} (h : isSpecial E u = false) : u2r E u = ⟨(u2r E u).val.norm, false, false⟩ := by
  rw [u2r_of_number h, fin, Dyad.norm_norm]

/-- A value some finite unum has is encoded exactly (42_pack.md R162 (b)). -/
theorem r2u_of_value {u : Unum} {x : Dyad} (hsp : isSpecial E u = false) (h : x.toRat = (u2r E u).val.toRat) :
    ubitOf E (r2u E x) = false ∧ u2r E (r2u E x) = u2r E u := by
  have habs : |x.toRat| = magRat E u := by
    rw [h, u2r_val_toRat hsp, abs_mul, abs_of_nonneg (show 0 ≤ magRat E u from magVal_nonneg ..)]
    split <;> norm_num
  have hub := r2u_exact_of_magRat hsp habs
  refine ⟨hub, ?_⟩
  have hval := Dyad.norm_eq_of_toRat_eq ((u2r_r2u_toRat hub).trans h)
  rw [u2r_eq_fin (r2u_realUnum E x).notSpecial, u2r_eq_fin hsp, hval]

end

/-- Settles O45. -/
theorem realEncodingIsSound : Obligations.RealEncodingIsSound := by
  unfold Obligations.RealEncodingIsSound
  intro E
  refine ⟨fun x => ?_, fun u x hsp h => r2u_of_value hsp h⟩
  have hreal := r2u_realUnum E x
  exact ⟨hreal.canonical, hreal.notSpecial, u2r_r2u_toRat, u2g_r2u_holds, r2u_neg E⟩

end Sys2Proof.Machine
end

section
/-! PROOF. The encoded ends (42_pack.md R164) and the packed bound (R168, R169): the slivers next to an exact unum, the
end each encoder arm gives against the endpoint, and that the bound of the two encloses the interval; O47 and O49. -/

namespace Sys2Proof.Machine

/-! ### Representable endpoints -/

theorem infPattern_fields (E : Env) (s : Bool) :
    isSpecial E (infPattern E s) = true ∧ ubitOf E (infPattern E s) = false ∧ signOf E (infPattern E s) = s := by
  obtain ⟨hs, he, hf, hub, hes, hfs, -⟩ := allOnes_hasFields E s false
  exact ⟨isSpecial_iff.2 ⟨hes, hfs, by rw [infPattern, he, hes, ones], by rw [infPattern, hf, hfs, ones]⟩, hub, hs⟩

/-- The interval of an infinity is the closed point. -/
theorem u2g_infPattern (E : Env) (s : Bool) : u2g E (infPattern E s) = point (infOf s false) := by
  obtain ⟨hsp, hub, hs⟩ := infPattern_fields E s
  rw [u2g_of_exact hub, u2r_of_special hsp, hs]

theorem Gnum.toNum_eq_infOf {p : Gnum} (hinf : p.inf = true) (o : Bool) : (infOf p.val.isNeg o).toNum = p.toNum := by
  rw [infOf_toNum, Gnum.toNum_of_inf hinf]

theorem representable_of_inf {E : Env} {p : Gnum} (hinf : p.inf = true) : Representable E p := by
  obtain ⟨hsp, hub, hs⟩ := infPattern_fields E p.val.isNeg
  refine ⟨_, (infPattern_isNumber E p.val.isNeg).1, hub, ?_⟩
  rw [u2r_of_special hsp, hs, Gnum.toNum_eq_infOf hinf]

theorem u2r_toNum {E : Env} {u : Unum} (h : isSpecial E u = false) :
    (u2r E u).toNum = (((u2r E u).val.toRat : WithTop ℚ) : ExtNum) := by
  rw [u2r_of_number h, Gnum.toNum_of_finite rfl]

/-- A finite endpoint is representable exactly when `r2u` of its value is exact. -/
theorem representable_iff_of_finite {E : Env} {p : Gnum} (hfin : p.inf = false) :
    Representable E p ↔ ubitOf E (r2u E p.val) = false := by
  have hreal := r2u_realUnum E p.val
  constructor
  · rintro ⟨u, -, -, hnum⟩
    have hsp : isSpecial E u = false := by
      rw [Bool.eq_false_iff]
      intro hsp
      rw [u2r_of_special hsp, infOf_toNum, Gnum.toNum_of_finite hfin] at hnum
      split at hnum
      · exact WithBot.bot_ne_coe hnum
      · exact WithTop.top_ne_coe (WithBot.coe_injective hnum)
    rw [u2r_toNum hsp, Gnum.toNum_of_finite hfin] at hnum
    exact (r2u_of_value hsp (coe_rat_strictMono.injective hnum).symm).1
  · intro hub
    refine ⟨_, hreal.canonical, hub, ?_⟩
    rw [u2r_toNum hreal.notSpecial, u2r_r2u_toRat hub, Gnum.toNum_of_finite hfin]

/-! ### The slivers next to an exact unum (42_pack.md R163) -/

/-- The payloads of the all-ones exponent are the last `2^fs` ones. -/
theorem top_expo_payload (es fs : Nat) : (2 ^ es - 1) * 2 ^ fs + 2 ^ fs = 2 ^ (fs + es) := by
  rw [← Nat.succ_mul, Nat.succ_eq_add_one, Nat.sub_add_cancel Nat.one_le_two_pow, pow_add, Nat.mul_comm]

/-- The fields of a payload of the all-ones exponent. -/
theorem fields_of_top_expo {E : Env} {u : Unum} {f : Nat} (hf : f < 2 ^ fsOf E u)
    (h : payloadOf E u = (2 ^ esOf E u - 1) * 2 ^ fsOf E u + f) : expoOf E u = 2 ^ esOf E u - 1 ∧ fracOf E u = f := by
  rw [expoOf_eq_payload_div, fracOf_eq_payload_mod, h, payload_div hf, payload_mod hf]
  exact ⟨rfl, rfl⟩

theorem two_le_two_pow_fsOf (E : Env) (u : Unum) : 2 ≤ 2 ^ fsOf E u :=
  Nat.le_self_pow (Nat.one_le_iff_ne_zero.1 (fsOf_pos E u)) 2

/-- The payload before a finite unum's is not the widest of its tag. -/
theorem FiniteUnum.not_widest_below {E : Env} {u w : Unum} {s : Bool} (h : FiniteUnum E s u)
    (hes : esOf E w = esOf E u) (hfs : fsOf E w = fsOf E u) (hp : payloadOf E w + 1 = payloadOf E u) :
    isWidest E w = false := by
  rw [Bool.eq_false_iff]
  intro hw
  obtain ⟨he, hf⟩ := isWidest_iff.1 hw
  have hlast := top_expo_payload (esOf E u) (fsOf E u)
  have htwo := two_le_two_pow_fsOf E u
  have hlt := payloadOf_lt E u
  rw [payloadOf, he, hf, hes, hfs] at hp
  split at hp
  next hmax =>
    obtain ⟨hexpo, hfrac⟩ := fields_of_top_expo (E := E) (u := u) (f := 2 ^ fsOf E u - 1) (by omega) (by omega)
    exact Bool.false_ne_true (h.notSpecial.symm.trans (isSpecial_iff.2 ⟨hmax.1, hmax.2, hexpo, hfrac⟩))
  next => omega

section
variable {E : Env} {u : Unum} {s : Bool} (h : FiniteUnum E s u) (hub : ubitOf E u = false)
include h hub

/-- One `ubitmask` above an exact unum: the sliver that starts at its magnitude. -/
theorem FiniteUnum.sliver_above : ∃ far, IsSliver (u2g E (u + E.ubitmask)) s (nearNum E u) far := by
  have hpayload := h.hasPayload_of_exact hub
  have habove := hpayload.exact_add_ubitmask
  have hsp := (isSpecial_congr habove.es habove.fs habove.payload).trans h.notSpecial
  have hnear : nearNum E (u + E.ubitmask) = nearNum E u := by
    have hmag := congrArg Dyad.toRat (habove.mag_eq.trans hpayload.mag_eq.symm)
    rw [mag_toRat, mag_toRat] at hmag
    rw [nearNum, nearNum, hmag]
  have hsliver := u2g_isSliver hsp habove.ubit
  rw [habove.sign, hnear] at hsliver
  exact ⟨_, hsliver⟩

/-- One `ubitmask` below an exact unum other than zero: the sliver that ends at its magnitude. -/
theorem FiniteUnum.sliver_below (hp : 0 < payloadOf E u) :
    ∃ near, IsSliver (u2g E (u - E.ubitmask)) s near (nearNum E u) := by
  obtain ⟨p, hsucc⟩ := Nat.exists_eq_add_of_le' hp
  have hpayload := h.hasPayload_of_exact hub
  rw [hsucc] at hpayload
  have hbelow := hpayload.exact_sub_ubitmask
  have hnext := hbelow.magRat_succ hpayload
  have hw : isWidest E (u - E.ubitmask) = false :=
    h.not_widest_below hbelow.es hbelow.fs (by rw [hbelow.payload, hsucc])
  have hroom : payloadOf E (u - E.ubitmask) + 1 < 2 ^ (fsOf E (u - E.ubitmask) + esOf E (u - E.ubitmask)) := by
    rw [hbelow.payload, hbelow.fs, hbelow.es]
    exact hpayload.tagHolds.payload_lt
  have hsliver := u2g_isSliver (isSpecial_eq_false_of_payload hroom) hbelow.ubit
  rw [hbelow.sign, farNum, hw, if_neg Bool.false_ne_true, ← ulpOf, ← hnext] at hsliver
  exact ⟨_, hsliver⟩

end

/-! ### The end each encoder gives -/

/-- A number as its magnitude, mirrored when negative. -/
theorem num_eq_signed (x : Dyad) : ((x.toRat : WithTop ℚ) : ExtNum) =
    if x.isNeg then mirror (((|x.toRat| : ℚ) : WithTop ℚ) : ExtNum) else (((|x.toRat| : ℚ) : WithTop ℚ) : ExtNum) := by
  have hx := signed_abs x
  cases hneg : x.isNeg
  · rw [hneg, if_neg Bool.false_ne_true, one_mul] at hx
    rw [if_neg Bool.false_ne_true, hx]
  · rw [hneg, if_pos rfl, neg_one_mul] at hx
    rw [if_pos rfl, mirror_rat, hx]

/-- An encoder's result against the endpoint `p` on one side: the end is `p` itself when `p` is representable, and
strictly outside it, `outside` in the endpoint order, when not (42_pack.md R164). -/
structure AtOrOutside (E : Env) (p : Gnum) (sd : Side) (outside : Ordering) (q : Gnum) (inexact : Bool) : Prop where
  exact : Representable E p → inexact = false ∧ cmpE q sd p sd = .eq
  inexact : ¬ Representable E p → inexact = true ∧ cmpE q sd p sd = outside

section
variable {E : Env} {p q : Gnum} {sd : Side}

theorem AtOrOutside.of_same {outside : Ordering} (hrep : Representable E p) (hnum : q.toNum = p.toNum)
    (hopn : q.opn = p.opn) : AtOrOutside E p sd outside q false :=
  ⟨fun _ => ⟨rfl, (cmpE_eq_eq_iff q p sd).2 ⟨hnum, hopn⟩⟩, fun h => absurd hrep h⟩

theorem AtOrOutside.of_less (hrep : ¬ Representable E p) (hlt : q.toNum < p.toNum) : AtOrOutside E p sd .lt q true := by
  refine ⟨fun h => absurd h hrep, fun _ => ⟨rfl, ?_⟩⟩
  rw [cmpE_eq_compare_rank, compare_lt_iff_lt, Gnum.rank, Gnum.rank, Prod.Lex.toLex_lt_toLex]
  exact .inl hlt

theorem AtOrOutside.of_greater (hrep : ¬ Representable E p) (hlt : p.toNum < q.toNum) :
    AtOrOutside E p sd .gt q true := by
  refine ⟨fun h => absurd h hrep, fun _ => ⟨rfl, ?_⟩⟩
  rw [cmpE_eq_compare_rank, compare_gt_iff_gt, Gnum.rank, Gnum.rank, Prod.Lex.toLex_lt_toLex]
  exact .inl hlt

/-- The widest sliver of the maximum tag reaches the open infinity. -/
theorem u2g_openInfPattern (E : Env) (s : Bool) :
    ∃ near, IsSliver (u2g E (openInfPattern E s)) s near ((⊤ : WithTop ℚ) : ExtNum) := by
  have hF := one_lt_two_pow_fsmax E
  obtain ⟨hs, he, hf, hub, hes, hfs, -⟩ := openInfPattern_hasFields E s
  have hsp : isSpecial E (openInfPattern E s) = false := by
    rw [Bool.eq_false_iff, Ne, isSpecial_iff, hf, hfs]
    rintro ⟨-, -, -, h⟩
    omega
  have hw : isWidest E (openInfPattern E s) = true :=
    isWidest_iff.2 ⟨by rw [he, hes], by rw [if_pos ⟨hes, hfs⟩, hf, hfs]⟩
  have hsliver := u2g_isSliver hsp hub
  rw [hs, farNum, if_pos hw] at hsliver
  exact ⟨_, hsliver⟩

/-- The sliver from -1 to 0 ends at the open 0. -/
theorem u2g_belowZero (E : Env) :
    (u2g E (mk E true 0 0 true 1 1)).r.opn = true ∧
      (u2g E (mk E true 0 0 true 1 1)).r.toNum = (((0 : ℚ) : WithTop ℚ) : ExtNum) := by
  have hfields := belowZero_hasFields E
  have hzero : magRat E (mk E true 0 0 true 1 1) = 0 := by
    rw [magRat_of_hasFields hfields, magVal_subnormal, Nat.cast_zero, zero_mul]
  obtain ⟨hs, he, -, hub, hes, -⟩ := hfields
  have hsp : isSpecial E (mk E true 0 0 true 1 1) = false := isSpecial_eq_false_of_expo (by rw [he, hes]; decide)
  obtain ⟨-, -, hr, -, hrnum⟩ := u2g_isSliver hsp hub
  rw [hs, if_pos rfl, nearNum, hzero, mirror_rat, neg_zero] at hrnum
  exact ⟨hr, hrnum⟩

section
variable (hfin : p.inf = false)
include hfin

theorem nearNum_signed (hub : ubitOf E (r2u E p.val) = false) :
    p.toNum = if p.val.isNeg then mirror (nearNum E (r2u E p.val)) else nearNum E (r2u E p.val) := by
  rw [nearNum, (r2u_encodesMag E p.val).exact hub, ← num_eq_signed, Gnum.toNum_of_finite hfin]

theorem u2g_r2u_ends (hub : ubitOf E (r2u E p.val) = true) :
    (u2g E (r2u E p.val)).l.toNum < p.toNum ∧ p.toNum < (u2g E (r2u E p.val)).r.toNum := by
  have hreal := r2u_realUnum E p.val
  obtain ⟨-, hl, hr, -⟩ := u2g_isSliver hreal.notSpecial hub
  have hholds := u2g_r2u_holds hub
  rw [Gbnd.Holds, hl, hr, if_pos rfl, if_pos rfl, ← Gnum.toNum_of_finite hfin] at hholds
  exact hholds.2

theorem u2g_r2u_closed (hub : ubitOf E (r2u E p.val) = false) :
    ∃ q, u2g E (r2u E p.val) = point q ∧ q.toNum = p.toNum ∧ q.opn = false := by
  have hsp := (r2u_realUnum E p.val).notSpecial
  refine ⟨_, u2g_of_exact hub, ?_, by rw [u2r_eq_fin hsp]⟩
  rw [u2r_toNum hsp, u2r_r2u_toRat hub, Gnum.toNum_of_finite hfin]

end

/-- A left end other than an open +∞, encoded. -/
theorem encl_atOrOutside (h : p.inf = true → p.opn = true → p.val.isNeg = true) :
    AtOrOutside E p .left .lt (u2g E (encl E p).1).l (encl E p).2 := by
  cases hinf : p.inf
  case true =>
    have hrep := representable_of_inf (E := E) hinf
    have hnum := Gnum.toNum_eq_infOf hinf
    cases hopn : p.opn <;> cases hneg : p.val.isNeg <;> rw [hneg] at hnum
    case false.false =>
      rw [encl_of_posInf hinf hneg, hopn, if_neg Bool.false_ne_true, u2g_infPattern]
      exact .of_same hrep (hnum _) hopn.symm
    case false.true =>
      rw [encl_of_negInf hinf hneg, hopn, if_neg Bool.false_ne_true, u2g_infPattern]
      exact .of_same hrep (hnum _) hopn.symm
    case true.false => exact absurd (h hinf hopn) (hneg ▸ Bool.false_ne_true)
    case true.true =>
      obtain ⟨near, -, hl, -, hlnum, -⟩ := u2g_openInfPattern E true
      rw [encl_of_negInf hinf hneg, hopn, if_pos rfl]
      exact .of_same hrep (hlnum.trans (hnum true)) (hl.trans hopn.symm)
  case false =>
    have hrep := representable_iff_of_finite (E := E) hinf
    have hreal := r2u_realUnum E p.val
    cases hub : ubitOf E (r2u E p.val) <;> rw [hub] at hrep
    case true =>
      rw [encl_of_inexact hinf hub]
      exact .of_less (fun h => Bool.false_ne_true (hrep.1 h).symm) (u2g_r2u_ends hinf hub).1
    case false =>
      have hnum := nearNum_signed hinf hub
      have hrep := hrep.2 rfl
      cases hopn : p.opn
      case false =>
        obtain ⟨q, hpoint, hq, hclosed⟩ := u2g_r2u_closed hinf hub
        rw [encl_of_closed hinf hub hopn, hpoint]
        exact .of_same hrep hq (hclosed.trans hopn.symm)
      case true =>
        cases hneg : p.val.isNeg <;> rw [hneg] at hnum
        case false =>
          obtain ⟨far, -, hl, -, hlnum, -⟩ := hreal.sliver_above hub
          rw [hneg] at hlnum
          rw [encl_of_open_nonneg hinf hub hopn hneg]
          exact .of_same hrep (hlnum.trans hnum.symm) (hl.trans hopn.symm)
        case true =>
          have hne : p.val.man ≠ 0 := fun hzero => by simp [Dyad.isNeg, hzero] at hneg
          obtain ⟨near, -, hl, -, hlnum, -⟩ :=
            hreal.sliver_below hub (hreal.payload_pos hub (Dyad.abs_toRat_pos hne))
          rw [hneg] at hlnum
          rw [encl_of_open_neg hinf hub hopn hneg]
          exact .of_same hrep (hlnum.trans hnum.symm) (hl.trans hopn.symm)

/-- A right end other than an open −∞, encoded. -/
theorem encr_atOrOutside (h : p.inf = true → p.opn = true → p.val.isNeg = false) :
    AtOrOutside E p .right .gt (u2g E (encr E p).1).r (encr E p).2 := by
  cases hinf : p.inf
  case true =>
    have hrep := representable_of_inf (E := E) hinf
    have hnum := Gnum.toNum_eq_infOf hinf
    cases hopn : p.opn <;> cases hneg : p.val.isNeg <;> rw [hneg] at hnum
    case false.false =>
      rw [encr_of_posInf hinf hneg, hopn, if_neg Bool.false_ne_true, u2g_infPattern]
      exact .of_same hrep (hnum _) hopn.symm
    case false.true =>
      rw [encr_of_negInf hinf hneg, hopn, if_neg Bool.false_ne_true, u2g_infPattern]
      exact .of_same hrep (hnum _) hopn.symm
    case true.true => exact absurd (h hinf hopn) (hneg ▸ Bool.true_eq_false_eq_False)
    case true.false =>
      obtain ⟨near, -, -, hr, -, hrnum⟩ := u2g_openInfPattern E false
      rw [encr_of_posInf hinf hneg, hopn, if_pos rfl]
      exact .of_same hrep (hrnum.trans (hnum true)) (hr.trans hopn.symm)
  case false =>
    have hrep := representable_iff_of_finite (E := E) hinf
    have hreal := r2u_realUnum E p.val
    cases hub : ubitOf E (r2u E p.val) <;> rw [hub] at hrep
    case true =>
      rw [encr_of_inexact hinf hub]
      exact .of_greater (fun h => Bool.false_ne_true (hrep.1 h).symm) (u2g_r2u_ends hinf hub).2
    case false =>
      have hnum := nearNum_signed hinf hub
      have hrep := hrep.2 rfl
      cases hopn : p.opn
      case false =>
        obtain ⟨q, hpoint, hq, hclosed⟩ := u2g_r2u_closed hinf hub
        rw [encr_of_closed hinf hub hopn, hpoint]
        exact .of_same hrep hq (hclosed.trans hopn.symm)
      case true =>
        by_cases hzero : p.val.man = 0
        · obtain ⟨hr, hrnum⟩ := u2g_belowZero E
          rw [encr_of_open_zero hinf hub hopn hzero]
          refine .of_same hrep (hrnum.trans ?_) (hr.trans hopn.symm)
          rw [Gnum.toNum_of_finite hinf, Dyad.toRat_eq_zero_iff.2 hzero]
        cases hneg : p.val.isNeg <;> rw [hneg] at hnum
        case false =>
          obtain ⟨near, -, -, hr, -, hrnum⟩ :=
            hreal.sliver_below hub (hreal.payload_pos hub (Dyad.abs_toRat_pos hzero))
          rw [hneg] at hrnum
          rw [encr_of_open_pos hinf hub hopn hneg hzero]
          exact .of_same hrep (hrnum.trans hnum.symm) (hr.trans hopn.symm)
        case true =>
          obtain ⟨far, -, -, hr, -, hrnum⟩ := hreal.sliver_above hub
          rw [hneg] at hrnum
          rw [encr_of_open_neg hinf hub hopn hneg]
          exact .of_same hrep (hrnum.trans hnum.symm) (hr.trans hopn.symm)

end

/-! ### The obligations -/

theorem isNan_qnan (E : Env) : isNan E (qnan E) = true := by
  obtain ⟨-, he, hf, hub, hes, hfs, -⟩ := allOnes_hasFields E false true
  have hsp : isSpecial E (qnan E) = true :=
    isSpecial_iff.2 ⟨hes, hfs, by rw [qnan, nanPattern, he, hes, ones], by rw [qnan, nanPattern, hf, hfs, ones]⟩
  rw [isNan, hsp, qnan, nanPattern, hub]
  rfl

/-- Settles O47. -/
theorem encodedEndpointIsAtOrOutside : Obligations.EncodedEndpointIsAtOrOutside := by
  unfold Obligations.EncodedEndpointIsAtOrOutside
  intro E p
  refine ⟨fun hinf hopn hneg => ?_, fun hinf hopn hneg => ?_, fun h => ?_, fun h => ?_⟩
  · rw [encl_of_posInf hinf hneg, hopn]
    exact ⟨isNan_qnan E, nanPattern_canonical E false⟩
  · rw [encr_of_negInf hinf hneg, hopn]
    exact ⟨isNan_qnan E, nanPattern_canonical E false⟩
  · have hend : p.inf = true → p.opn = true → p.val.isNeg = true :=
      fun hinf hopn => Bool.eq_true_of_not_eq_false fun hneg => h ⟨hinf, hopn, hneg⟩
    obtain ⟨hcanon, hnan⟩ := encl_isNumber (E := E) hend
    obtain ⟨hexact, hinexact⟩ := encl_atOrOutside (E := E) hend
    exact ⟨hcanon, hnan, hexact, hinexact⟩
  · have hend : p.inf = true → p.opn = true → p.val.isNeg = false :=
      fun hinf hopn => Bool.eq_false_of_not_eq_true fun hneg => h ⟨hinf, hopn, hneg⟩
    obtain ⟨hcanon, hnan⟩ := encr_isNumber (E := E) hend
    obtain ⟨hexact, hinexact⟩ := encr_atOrOutside (E := E) hend
    exact ⟨hcanon, hnan, hexact, hinexact⟩

/-! ### The packed bound (42_pack.md R169) -/

/-- `b` is a bound that holds the interval `g`, and is `g` when both ends are representable. -/
structure Packs (E : Env) (b : Ubound) (g : Gbnd) : Prop where
  nan : (b2g E b).nan = false
  encloses : encloses (b2g E b) g = true
  identical : Representable E g.l → Representable E g.r → identical (b2g E b) g = true

theorem Packs.of_identical {E : Env} {g : Gbnd} {b : Ubound} (hb : Machine.identical (b2g E b) g = true) :
    Packs E b g := by
  obtain ⟨hnan, -, hl, hr⟩ := identical_iff.1 hb
  exact ⟨hnan, encloses_iff.2 ⟨hl.le, hr.ge⟩, fun _ _ => hb⟩

section
variable {E : Env} {g : Gbnd} (h : g.Proper)
include h

/-- A number interval whose ends are the encoded ends holds the interval encoded. -/
theorem Packs.of_encoded_ends {b : Ubound} (hnan : (b2g E b).nan = false)
    (hl : (b2g E b).l = (u2g E (encl E g.l).1).l) (hr : (b2g E b).r = (u2g E (encr E g.r).1).r) : Packs E b g := by
  obtain ⟨hlexact, hlinexact⟩ := encl_atOrOutside (E := E) h.left_not_open_posInf
  obtain ⟨hrexact, hrinexact⟩ := encr_atOrOutside (E := E) h.right_not_open_negInf
  rw [← hl] at hlexact hlinexact
  rw [← hr] at hrexact hrinexact
  simp only [cmpE_eq_compare_rank, compare_eq_iff_eq, compare_lt_iff_lt] at hlexact hlinexact
  simp only [cmpE_eq_compare_rank, compare_eq_iff_eq, compare_gt_iff_gt] at hrexact hrinexact
  refine ⟨hnan, encloses_iff.2 ⟨?_, ?_⟩, fun hrepl hrepr => ?_⟩
  · by_cases hrep : Representable E g.l
    · exact (hlexact hrep).2.le
    · exact (hlinexact hrep).2.le
  · by_cases hrep : Representable E g.r
    · exact (hrexact hrep).2.ge
    · exact (hrinexact hrep).2.le
  · exact identical_iff.2 ⟨hnan, h.1, (hlexact hrepl).2, (hrexact hrepr).2⟩

theorem packs_encodedPair : Packs E (encodedPair E g) g := by
  have hl := (encl_isNumber (E := E) h.left_not_open_posInf).2
  have hr := (encr_isNumber (E := E) h.right_not_open_negInf).2
  have hpair : b2g E (encodedPair E g) = ⟨false, (u2g E (encl E g.l).1).l, (u2g E (encr E g.r).1).r⟩ :=
    b2g_of_pair rfl ((u2g_nan E _).trans hl) ((u2g_nan E _).trans hr)
  exact .of_encoded_ends h (by rw [hpair]) (by rw [hpair]) (by rw [hpair])

theorem packs_single (hsame : (encl E g.l).1 = (encr E g.r).1) : Packs E (single (encl E g.l).1) g := by
  have hl := (encl_isNumber (E := E) h.left_not_open_posInf).2
  have hsingle : b2g E (single (encl E g.l).1) = u2g E (encl E g.l).1 := b2g_of_single rfl
  exact .of_encoded_ends h (by rw [hsingle, u2g_nan, hl]) (by rw [hsingle]) (by rw [hsingle, hsame])

/-- Each arm of `pack` gives a canonical bound that holds the interval. -/
theorem pack_packs : CanonicalBound E (pack E g).bound ∧ Packs E (pack E g).bound g := by
  by_cases hsame : (encl E g.l).1 = (encr E g.r).1 ∧ g.l.opn = g.r.opn
  · rw [pack_of_same h hsame.1 hsame.2]
    exact ⟨canonicalBound_single (encl_canonical E g.l), packs_single h hsame.1⟩
  by_cases hkept : (unify E (encodedPair E g)).bound.p = false ∧
      Machine.identical (b2g E (unify E (encodedPair E g)).bound) g = true
  · rw [pack_of_unified h hsame hkept.1 hkept.2]
    exact ⟨unify_canonical (encodedPair_canonical E g), .of_identical hkept.2⟩
  · rw [pack_of_not_unified h hsame hkept]
    exact ⟨encodedPair_canonical E g, packs_encodedPair h⟩

end

/-- Settles O49. -/
theorem packEnclosesTheInterval : Obligations.PackEnclosesTheInterval := by
  unfold Obligations.PackEnclosesTheInterval
  intro E g
  refine ⟨fun h => ?_, fun h => ⟨?_, allOnes_hasFields E false true⟩⟩
  · obtain ⟨hcanon, hnan, hencl, hid⟩ := pack_packs (E := E) h
    exact ⟨hnan, hencl, hcanon, fun x hx => .of_encloses hnan h.1 hencl hx, hid⟩
  · have himproper : g.nan = true ∨ illformed g = true := by
      rw [not_and_or, Bool.not_eq_false, Bool.not_eq_false] at h
      exact h
    rw [pack_of_improper himproper]
    rfl

end Sys2Proof.Machine
end

section
/-! PROOF. The unification controller's arms (44_unify.md R211, R212): one equation per exit before the search, the
result of a candidate, and that the unified bound holds the bound given (R227); O58. -/

namespace Sys2Proof.Machine

/-! ### The sign bit as a mirror -/

theorem setSign_hasPayload {E : Env} {u : Unum} (h : NonnegUnum E u) :
    HasPayload E (setSign E u) true (payloadOf E u) (ubitOf E u) (esOf E u) (fsOf E u) :=
  HasPayload.setSign ⟨h.1, h.2, rfl, rfl, rfl, rfl⟩

/-- The interval of the magnitude does not depend on the sign bit. -/
theorem magInterval_congr {E : Env} {u v : Unum} {s t ub : Bool} {p es fs : Nat} (hu : HasPayload E u s p ub es fs)
    (hv : HasPayload E v t p ub es fs) : magInterval E u = magInterval E v := by
  have hes : esOf E u = esOf E v := hu.es.trans hv.es.symm
  have hfs : fsOf E u = fsOf E v := hu.fs.trans hv.fs.symm
  have hp : payloadOf E u = payloadOf E v := hu.payload.trans hv.payload.symm
  have hub : ubitOf E u = ubitOf E v := hu.ubit.trans hv.ubit.symm
  have hsp : isSpecial E u = isSpecial E v := isSpecial_congr hes hfs hp
  have hmag : mag E u = mag E v := hu.mag_eq.trans hv.mag_eq.symm
  have hw : isWidest E u = isWidest E v := by
    rw [isWidest, isWidest, expoOf_eq_payload_div, expoOf_eq_payload_div, fracOf_eq_payload_mod, fracOf_eq_payload_mod,
      hes, hfs, hp]
  cases hspv : isSpecial E v
  case true => simp only [magInterval, isNan, hsp, hspv, hub, if_pos]
  case false =>
    rw [hspv] at hsp
    cases hubv : ubitOf E v <;> rw [hubv] at hub
    · rw [magInterval_of_exact hsp hub, magInterval_of_exact hspv hubv, hmag]
    · rw [magInterval_of_inexact hsp hub, magInterval_of_inexact hspv hubv, hmag, hw]
      cases hwv : isWidest E v
      case true => rfl
      case false =>
        have hroom := payload_succ_lt hspv hwv
        rw [hv.payload, hv.fs, hv.es] at hroom
        obtain rfl : ub = true := hv.ubit.symm.trans hubv
        rw [(hu.inexact_add_ulpu hroom).mag_eq, (hv.inexact_add_ulpu hroom).mag_eq]

/-- Setting the sign bit mirrors the interval. -/
theorem u2g_setSign {E : Env} {u : Unum} (h : NonnegUnum E u) : u2g E (setSign E u) = negg (u2g E u) := by
  have hset := setSign_hasPayload h
  have hmag : magInterval E (setSign E u) = magInterval E u :=
    magInterval_congr hset ⟨h.1, rfl, rfl, rfl, rfl, rfl⟩
  rw [u2g_eq_magInterval, u2g_eq_magInterval E u, hset.sign, h.2, hmag]
  rfl

/-! ### The exits before the search (44_unify.md R212 steps 1 to 4) -/

/-- The run that leaves a bound as it is, with exit `x`. -/
def Ubound.passes (b : Ubound) (x : UnifyExit) : Unified :=
  { bound := b, exit := x, eiter := 0, fiter := 0, neg := false }

/-- Both ends are one infinity. -/
abbrev Gbnd.OneInf (g : Gbnd) : Prop := g.l.inf = true ∧ g.r.inf = true ∧ g.l.toNum = g.r.toNum

theorem oneInf_iff {g : Gbnd} : (g.l.inf && g.r.inf && cmpV g.l g.r == .eq) = true ↔ g.OneInf := by
  rw [Bool.and_eq_true, Bool.and_eq_true, beq_iff_eq, cmpV_eq_compare_toNum, compare_eq_iff_eq, and_assoc]

/-- The bound of the unum of fewer bits. -/
def fewerBits (E : Env) (b : Ubound) : Ubound := single (if numbits E b.r < numbits E b.l then b.r else b.l)

section
variable {E : Env} {b : Ubound}

theorem unify_of_single (hp : b.p = false) : unify E b = b.passes .single := if_pos hp

variable (hp : b.p = true)
include hp

theorem unify_of_nan (h : (b2g E b).nan = true) : unify E b = b.passes .nanpass := by
  simp [unify, hp, h, Ubound.passes]

variable (hnan : (b2g E b).nan = false)
include hnan

theorem unify_of_oneInf (h : (b2g E b).OneInf) : unify E b = b.passes .infpass := by
  simp only [unify, hp, hnan, Bool.true_eq_false, Bool.false_eq_true, if_false, oneInf_iff.2 h, if_true]
  rfl

variable (hinf : ¬ (b2g E b).OneInf)
include hinf

theorem unify_of_illformed (h : illformed (b2g E b) = true) : unify E b = b.passes .illpass := by
  simp only [unify, hp, hnan, Bool.true_eq_false, Bool.false_eq_true, if_false, mt oneInf_iff.1 hinf, h, if_true]
  rfl

variable (hwell : illformed (b2g E b) = false)
include hwell

theorem unify_of_same (h : identical (u2g E b.l) (u2g E b.r) = true) :
    unify E b = (fewerBits E b).passes .samept := by
  simp only [unify, hp, hnan, Bool.true_eq_false, Bool.false_eq_true, if_false, mt oneInf_iff.1 hinf, hwell, h, if_true]
  rfl

variable (hdiff : ¬ identical (u2g E b.l) (u2g E b.r) = true)
include hdiff

theorem unify_of_distinct :
    unify E b = if negativeOnly (b2g E b) then unifyPositive E b (negg (b2g E b)) true
      else unifyPositive E b (b2g E b) false := by
  simp only [unify, hp, hnan, Bool.true_eq_false, Bool.false_eq_true, if_false, mt oneInf_iff.1 hinf, hwell, hdiff]

end

/-! ### The result of steps 5 to 10 (44_unify.md R212) -/

section
variable {E : Env} {b : Ubound} {g : Gbnd} {neg : Bool}

/-- The condition of step 5: 0 is above the lower end, or 0, 1, 2 or 3 is an element. -/
abbrev Skips (g : Gbnd) : Prop := cmpV g.l zeroEnd = .lt ∨ holdsSmall g = true

theorem skips_iff : (cmpV g.l zeroEnd == .lt || holdsSmall g) = true ↔ Skips g := by
  rw [Bool.or_eq_true, beq_iff_eq]

theorem unifyPositive_of_skips (h : Skips g) : unifyPositive E b g neg = ⟨b, .skip, 0, 0, neg⟩ := by
  rw [unifyPositive, if_pos (skips_iff.2 h)]

section
variable (h : ¬ Skips g)
include h

theorem unifyPositive_of_none (hc : (candidate E g).unum = none) :
    unifyPositive E b g neg = ⟨b, (candidate E g).exit, (candidate E g).eiter, (candidate E g).fiter, neg⟩ := by
  simp only [unifyPositive, if_neg (mt skips_iff.1 h), hc]

theorem unifyPositive_of_encloses {u : Unum} (hc : (candidate E g).unum = some u) (hu : encloses (u2g E u) g = true) :
    unifyPositive E b g neg = ⟨single (if neg then setSign E u else u), (candidate E g).exit, (candidate E g).eiter,
      (candidate E g).fiter, neg⟩ := by
  simp only [unifyPositive, if_neg (mt skips_iff.1 h), hc, hu, if_true]

theorem unifyPositive_of_not_encloses {u : Unum} (hc : (candidate E g).unum = some u)
    (hu : encloses (u2g E u) g = false) :
    unifyPositive E b g neg = ⟨b, .fail, (candidate E g).eiter, (candidate E g).fiter, neg⟩ := by
  simp only [unifyPositive, if_neg (mt skips_iff.1 h), hc, hu, Bool.false_eq_true, if_false]

theorem isNeg_of_not_skips : g.l.val.isNeg = false := isNeg_eq_false_of_cmpV_zeroEnd fun hlt => h (.inl hlt)

end

end

/-! ### The unified bound holds the bound given (44_unify.md R227) -/

/-- What encloses an interval with elements is a number. -/
theorem nan_eq_false_of_encloses {E : Env} {u : Unum} {g : Gbnd} (hg : g.Proper) (h : encloses (u2g E u) g = true) :
    (u2g E u).nan = false := by
  rw [Bool.eq_false_iff]
  intro hnan
  have hu : u2g E u = nanG := if_pos ((u2g_nan E u).symm.trans hnan)
  obtain ⟨hl, hr⟩ := encloses_iff.1 h
  rw [hu] at hl hr
  have hle : nanG.l.rank .left ≤ nanG.r.rank .right := hl.trans (hg.ends_le.trans hr)
  rw [Gnum.rank, Gnum.rank, Prod.Lex.toLex_le_toLex] at hle
  obtain hlt | ⟨-, hpos⟩ := hle
  · exact lt_irrefl _ hlt
  · exact absurd hpos (by decide)

/-- `c` is a number bound that encloses the bound `b`. -/
structure HoldsBound (E : Env) (b c : Ubound) : Prop where
  nan : (b2g E c).nan = false
  encloses : encloses (b2g E c) (b2g E b) = true

section
variable {E : Env} {b : Ubound}

theorem HoldsBound.refl (h : (b2g E b).nan = false) : HoldsBound E b b := ⟨h, encloses_refl _⟩

/-- A candidate that encloses the interval, or its mirror image, gives a singleton that holds the bound. -/
theorem HoldsBound.of_candidate {u : Unum} (h : (b2g E b).Proper) (hu : NonnegUnum E u) (neg : Bool)
    (hencl : Machine.encloses (u2g E u) (if neg then negg (b2g E b) else b2g E b) = true) :
    HoldsBound E b (single (if neg then setSign E u else u)) := by
  have hsingle (v : Unum) : b2g E (single v) = u2g E v := b2g_of_single rfl
  cases neg
  · exact ⟨(congrArg Gbnd.nan (hsingle u)).trans (nan_eq_false_of_encloses h hencl),
      (congrArg (Machine.encloses · _) (hsingle u)).trans hencl⟩
  · have hnan := nan_eq_false_of_encloses h.negg hencl
    have hmirror := u2g_setSign hu
    have hneg : (negg (u2g E u)).nan = false := (negg_nan _).trans hnan
    obtain ⟨-, -, hl, hr⟩ := identical_iff.1 (identical_negg_negg hnan)
    refine ⟨(congrArg Gbnd.nan ((hsingle _).trans hmirror)).trans hneg, ?_⟩
    rw [if_pos rfl, hsingle, hmirror, ← encloses_negg hneg h.1, encloses_iff, hl, hr, ← encloses_iff]
    exact hencl

theorem unifyPositive_holds (h : (b2g E b).Proper) (neg : Bool) :
    HoldsBound E b (unifyPositive E b (if neg then negg (b2g E b) else b2g E b) neg).bound := by
  by_cases hskip : Skips (if neg then negg (b2g E b) else b2g E b)
  · rw [unifyPositive_of_skips hskip]
    exact .refl h.1
  cases hc : (candidate E (if neg then negg (b2g E b) else b2g E b)).unum with
  | none =>
    rw [unifyPositive_of_none hskip hc]
    exact .refl h.1
  | some u =>
    cases hu : encloses (u2g E u) (if neg then negg (b2g E b) else b2g E b)
    · rw [unifyPositive_of_not_encloses hskip hc hu]
      exact .refl h.1
    · rw [unifyPositive_of_encloses hskip hc hu]
      exact .of_candidate h (candidate_nonnegUnum (isNeg_of_not_skips hskip) hc) neg hu

/-- Two unums of one interval: either of them holds the pair. -/
theorem fewerBits_holds (hp : b.p = true) (h : identical (u2g E b.l) (u2g E b.r) = true) :
    HoldsBound E b (fewerBits E b) := by
  obtain ⟨hl, hr, hll, hrr⟩ := identical_iff.1 h
  have hpair := b2g_of_pair hp hl hr
  have hsingle : b2g E (fewerBits E b) = u2g E (if numbits E b.r < numbits E b.l then b.r else b.l) := b2g_of_single rfl
  refine ⟨?_, encloses_iff.2 ?_⟩ <;> rw [hsingle] <;> split
  · exact hr
  · exact hl
  · rw [hpair]
    exact ⟨hll.ge, le_rfl⟩
  · rw [hpair]
    exact ⟨le_rfl, hrr.ge⟩

theorem unify_holds (hnan : (b2g E b).nan = false) : HoldsBound E b (unify E b).bound := by
  have hrefl := HoldsBound.refl hnan
  cases hp : b.p
  case false => rwa [unify_of_single hp]
  by_cases hinf : (b2g E b).OneInf
  · rwa [unify_of_oneInf hp hnan hinf]
  cases hwell : illformed (b2g E b)
  case true => rwa [unify_of_illformed hp hnan hinf hwell]
  by_cases hsame : identical (u2g E b.l) (u2g E b.r) = true
  · rw [unify_of_same hp hnan hinf hwell hsame]
    exact fewerBits_holds hp hsame
  rw [unify_of_distinct hp hnan hinf hwell hsame]
  split
  · exact unifyPositive_holds ⟨hnan, hwell⟩ true
  · exact unifyPositive_holds ⟨hnan, hwell⟩ false

theorem unify_bound_of_nan (hnan : (b2g E b).nan = true) : (unify E b).bound = b := by
  cases hp : b.p
  · rw [unify_of_single hp]
    rfl
  · rw [unify_of_nan hp hnan]
    rfl

end

/-- Settles O58. -/
theorem unifyEnclosesTheBound : Obligations.UnifyEnclosesTheBound := by
  unfold Obligations.UnifyEnclosesTheBound
  intro E b hb
  refine ⟨unify_canonical hb, unify_bound_of_nan, fun hnan => ?_⟩
  obtain ⟨hcnan, hencl⟩ := unify_holds hnan
  exact ⟨hcnan, hencl, fun x hx => .of_encloses hcnan hnan hencl hx⟩

end Sys2Proof.Machine
end

section
/-! PROOF. The loops of the unification controller (44_unify.md R212, R215, R217, R222): each turn lowers a size of a
unum that is no infinity and no NaN, so the loops end on their own tests. -/

namespace Sys2Proof.Machine

theorem loopTurns_zero {goes : Nat → Prop} (h : ¬ goes 0) : LoopTurns goes 0 :=
  ⟨fun _ hk => absurd hk (Nat.not_lt_zero _), h⟩

theorem loopTurns_succ {goes : Nat → Prop} {n : Nat} (h0 : goes 0) (h : LoopTurns (fun k => goes (k + 1)) n) :
    LoopTurns goes (n + 1) := by
  refine ⟨fun k hk => ?_, h.2⟩
  cases k with
  | zero => exact h0
  | succ k => exact h.1 k (Nat.lt_of_succ_lt_succ hk)

theorem LoopTurns.eq_zero {goes : Nat → Prop} {n : Nat} (h : LoopTurns goes n) (h0 : ¬ goes 0) : n = 0 :=
  Nat.eq_zero_of_not_pos fun hn => h0 (h.1 0 hn)

/-! ### What a demotion does to the sizes -/

section
variable {E : Env} {u : Unum}

theorem esOf_deme (hsp : isSpecial E u = false) (h : 1 < esOf E u) : esOf E (deme E u) + 1 = esOf E u := by
  obtain ⟨-, -, -, -, hes, -, -⟩ := deme_hasFields (demeStays_eq_false_iff.2 ⟨h.ne', hsp⟩)
  omega

theorem fsOf_deme (E : Env) (u : Unum) : fsOf E (deme E u) = fsOf E u := by
  cases h : demeStays E u
  · obtain ⟨-, -, -, -, -, hfs, -⟩ := deme_hasFields h
    exact hfs
  · rw [deme, if_pos h]

theorem fsOf_demf (hsp : isSpecial E u = false) (h : 1 < fsOf E u) : fsOf E (demf E u) + 1 = fsOf E u := by
  have hnarrows : demfStays E u = false := by simp [demfStays, hsp, h.ne']
  obtain ⟨-, -, -, -, -, hfs, -⟩ := demf_hasFields hnarrows
  omega

theorem esOf_demf (E : Env) (u : Unum) : esOf E (demf E u) = esOf E u := by
  cases h : demfStays E u
  · obtain ⟨-, -, -, -, hes, -, -⟩ := demf_hasFields h
    exact hes
  · rw [demf, if_pos h]

theorem isWidest_iff_atWidest : isWidest E u = true ↔ AtWidest E u := isWidest_iff

end

/-! ### Step 7: to the widest of a tag (44_unify.md R217) -/

/-- The exponent loop of step 7 goes on after `k` turns. -/
abbrev WidestExpoGoes (E : Env) (u : Unum) (k : Nat) : Prop :=
  ¬ AtWidest E ((deme E)^[k] u) ∧ 1 < esOf E ((deme E)^[k] u)

/-- The fraction loop of step 7 goes on after `k` turns. -/
abbrev WidestFracGoes (E : Env) (u : Unum) (k : Nat) : Prop :=
  ¬ AtWidest E ((demf E)^[k] u) ∧ 1 < fsOf E ((demf E)^[k] u)

/-- What step 7 makes of the unum it ends with. -/
def widestCandidate (E : Env) (u : Unum) (ei fi : Nat) : Candidate :=
  if isWidest E u then ⟨some u, .openinf, ei, fi⟩ else ⟨none, .fail, ei, fi⟩

/-- The loop of step 7 is its exponent loop and then its fraction loop. -/
theorem demoteToWidest_spec {E : Env} {k : Nat} {u : Unum} (ei fi : Nat) (hsp : isSpecial E u = false)
    (hfuel : esOf E u + fsOf E u ≤ k) :
    ∃ n m, demoteToWidest E k u ei fi = widestCandidate E ((demf E)^[m] ((deme E)^[n] u)) (ei + n) (fi + m) ∧
      LoopTurns (WidestExpoGoes E u) n ∧ LoopTurns (WidestFracGoes E ((deme E)^[n] u)) m ∧
      n < esOf E u ∧ m < fsOf E u := by
  have hes := esOf_pos E u
  have hfs := fsOf_pos E u
  induction k generalizing u ei fi with
  | zero => omega
  | succ k ih =>
    rw [demoteToWidest]
    by_cases hw : isWidest E u = true
    · have hat := isWidest_iff_atWidest.1 hw
      refine ⟨0, 0, ?_, loopTurns_zero fun h => h.1 hat, loopTurns_zero fun h => h.1 hat, hes, hfs⟩
      rw [if_pos hw, Function.iterate_zero_apply, Function.iterate_zero_apply, widestCandidate, if_pos hw]
      rfl
    have hat := mt isWidest_iff_atWidest.2 hw
    rw [if_neg hw]
    by_cases hexpo : 1 < esOf E u
    · have hes' := esOf_deme hsp hexpo
      have hfs' := fsOf_deme E u
      obtain ⟨n, m, hrun, hn, hm, hne, hmf⟩ := ih (ei + 1) fi (isSpecial_deme_of_number hsp) (by omega) (esOf_pos E _)
        (fsOf_pos E _)
      refine ⟨n + 1, m, ?_, loopTurns_succ ⟨hat, hexpo⟩ hn, hm, by omega, by omega⟩
      rw [if_pos hexpo, hrun, Function.iterate_succ_apply, Nat.add_right_comm, Nat.add_assoc]
    rw [if_neg hexpo]
    by_cases hfrac : 1 < fsOf E u
    · have hfs' := fsOf_demf hsp hfrac
      have hes' := esOf_demf E u
      obtain ⟨n, m, hrun, hn, hm, hne, hmf⟩ := ih ei (fi + 1) (isSpecial_demf_of_number hsp) (by omega) (esOf_pos E _)
        (fsOf_pos E _)
      obtain rfl := hn.eq_zero fun h => hexpo (hes' ▸ h.2)
      refine ⟨0, m + 1, ?_, loopTurns_zero fun h => hexpo h.2, loopTurns_succ ⟨hat, hfrac⟩ hm, hes, by omega⟩
      rw [if_pos hfrac, hrun, Nat.add_right_comm, Nat.add_assoc]
      rfl
    · refine ⟨0, 0, ?_, loopTurns_zero fun h => hexpo h.2, loopTurns_zero fun h => hfrac h.2, hes, hfs⟩
      rw [if_neg hfrac, Function.iterate_zero_apply, Function.iterate_zero_apply, widestCandidate, if_neg hw]
      rfl

/-! ### Step 9: demoting both (44_unify.md R215) -/

/-- The exponent loop of step 9 goes on after `k` turns. -/
abbrev SearchExpoGoes (E : Env) (ul ur : Unum) (k : Nat) : Prop :=
  (deme E)^[k] ul ≠ (deme E)^[k] ur ∧ 1 < esOf E ((deme E)^[k] ul) ∧ DemeLossless E ((deme E)^[k] ul) ∧
    DemeLossless E ((deme E)^[k] ur)

/-- The fraction loop of step 9 goes on after `k` turns. -/
abbrev SearchFracGoes (E : Env) (ul ur : Unum) (k : Nat) : Prop :=
  (demf E)^[k] ul ≠ (demf E)^[k] ur ∧ 1 < fsOf E ((demf E)^[k] ul)

section
variable {E : Env} {k : Nat} {ul ur : Unum}

theorem exponentPhase_spec (ei : Nat) (hsp : isSpecial E ul = false) (hfuel : esOf E ul ≤ k) :
    ∃ n, exponentPhase E k ul ur ei = ((deme E)^[n] ul, (deme E)^[n] ur, ei + n) ∧
      LoopTurns (SearchExpoGoes E ul ur) n ∧ n < esOf E ul := by
  have hes := esOf_pos E ul
  induction k generalizing ul ur ei with
  | zero => omega
  | succ k ih =>
    rw [exponentPhase]
    by_cases hgoes : SearchExpoGoes E ul ur 0
    · have hturn : ul ≠ ur ∧ 1 < esOf E ul ∧ DemeLossless E ul ∧ DemeLossless E ur := hgoes
      obtain ⟨hne, hexpo, hl, hr⟩ := hturn
      have hes' := esOf_deme hsp hexpo
      obtain ⟨n, hrun, hn, hlt⟩ := ih (ur := deme E ur) (ei + 1) (isSpecial_deme_of_number hsp) (by omega)
        (esOf_pos E _)
      refine ⟨n + 1, ?_, loopTurns_succ hgoes hn, by omega⟩
      rw [if_pos ⟨hne, hexpo⟩, if_pos (Bool.and_eq_true_iff.2 ⟨hl, hr⟩), hrun, Nat.add_right_comm, Nat.add_assoc]
      rfl
    · refine ⟨0, ?_, loopTurns_zero hgoes, hes⟩
      split
      next hcond =>
        have hlossy :
            ¬ (identical (u2g E (deme E ul)) (u2g E ul) && identical (u2g E (deme E ur)) (u2g E ur)) = true :=
          fun h => hgoes ⟨hcond.1, hcond.2, Bool.and_eq_true_iff.1 h⟩
        rw [if_neg hlossy]
        rfl
      next => rfl

theorem fractionPhase_spec (fi : Nat) (hsp : isSpecial E ul = false) (hfuel : fsOf E ul ≤ k) :
    ∃ m, fractionPhase E k ul ur fi = ((demf E)^[m] ul, (demf E)^[m] ur, fi + m) ∧
      LoopTurns (SearchFracGoes E ul ur) m ∧ m < fsOf E ul := by
  have hfs := fsOf_pos E ul
  induction k generalizing ul ur fi with
  | zero => omega
  | succ k ih =>
    rw [fractionPhase]
    by_cases hgoes : SearchFracGoes E ul ur 0
    · have hcond : ul ≠ ur ∧ 1 < fsOf E ul := hgoes
      have hfs' := fsOf_demf hsp hcond.2
      obtain ⟨m, hrun, hm, hlt⟩ := ih (ur := demf E ur) (fi + 1) (isSpecial_demf_of_number hsp) (by omega)
        (fsOf_pos E _)
      refine ⟨m + 1, ?_, loopTurns_succ hgoes hm, by omega⟩
      rw [if_pos hcond, hrun, Nat.add_right_comm, Nat.add_assoc]
      rfl
    · exact ⟨0, if_neg hgoes, loopTurns_zero hgoes, hfs⟩

theorem isSpecial_iterate_deme (n : Nat) (hsp : isSpecial E ul = false) : isSpecial E ((deme E)^[n] ul) = false := by
  induction n generalizing ul with
  | zero => exact hsp
  | succ n ih => exact ih (isSpecial_deme_of_number hsp)

theorem fsOf_iterate_deme (n : Nat) : fsOf E ((deme E)^[n] ul) = fsOf E ul := by
  induction n generalizing ul with
  | zero => rfl
  | succ n ih => exact ih.trans (fsOf_deme E ul)

/-- What step 9 makes of the two unums it ends with. -/
def searchCandidate (ul ur : Unum) (ei fi : Nat) : Candidate :=
  if ul = ur then ⟨some ul, .search, ei, fi⟩ else ⟨none, .fail, ei, fi⟩

theorem searchBoth_spec (ur : Unum) (hsp : isSpecial E ul = false) :
    ∃ n m, searchBoth E ul ur =
        searchCandidate ((demf E)^[m] ((deme E)^[n] ul)) ((demf E)^[m] ((deme E)^[n] ur)) n m ∧
      LoopTurns (SearchExpoGoes E ul ur) n ∧ LoopTurns (SearchFracGoes E ((deme E)^[n] ul) ((deme E)^[n] ur)) m ∧
      n < esOf E ul ∧ m < fsOf E ul := by
  obtain ⟨n, hexpo, hn, hne⟩ := exponentPhase_spec (ur := ur) 0 hsp le_rfl
  obtain ⟨m, hfrac, hm, hmf⟩ :=
    fractionPhase_spec (ur := (deme E)^[n] ur) 0 (isSpecial_iterate_deme n hsp) le_rfl
  refine ⟨n, m, ?_, hn, hm, hne, hmf.trans_eq (fsOf_iterate_deme n)⟩
  simp only [searchBoth, hexpo, hfrac, Nat.zero_add, searchCandidate]

end

end Sys2Proof.Machine
end

section
/-! PROOF. The unification controller's exits (44_unify.md R211, R212, R222, R228): the ends of a bound are encoded
exactly, the arms of the candidate, and the report of every run; O59. -/

namespace Sys2Proof.Machine

/-! ### The ends of a bound are encoded exactly -/

section
variable {E : Env} {u : Unum}

/-- The number of a unum is that of its magnitude, mirrored where the sign bit is set. -/
theorem u2r_toNum_signed (hsp : isSpecial E u = false) :
    (u2r E u).toNum = if signOf E u then mirror (nearNum E u) else nearNum E u := by
  rw [u2r_toNum hsp, u2r_val_toRat hsp, nearNum]
  cases signOf E u
  · rw [if_neg Bool.false_ne_true, if_neg Bool.false_ne_true, one_mul]
  · rw [if_pos rfl, if_pos rfl, neg_one_mul, mirror_rat]

/-- The near end of a sliver is the value of the exact unum of its payload. -/
theorem exists_exact_near (hc : Canonical E u) (hsp : isSpecial E u = false) (hub : ubitOf E u = true) :
    ∃ v, Canonical E v ∧ ubitOf E v = false ∧
      (u2r E v).toNum = if signOf E u then mirror (nearNum E u) else nearNum E u := by
  have hu : HasPayload E u (signOf E u) (payloadOf E u) true (esOf E u) (fsOf E u) := ⟨hc, rfl, rfl, hub, rfl, rfl⟩
  have hv := hu.inexact_sub_ubitmask
  have hsp' := (isSpecial_congr hv.es hv.fs hv.payload).trans hsp
  have hnear : nearNum E (u - E.ubitmask) = nearNum E u := by
    have hmag := congrArg Dyad.toRat (hv.mag_eq.trans hu.mag_eq.symm)
    rw [mag_toRat, mag_toRat] at hmag
    rw [nearNum, nearNum, hmag]
  exact ⟨_, hv.canonical, hv.ubit, by rw [u2r_toNum_signed hsp', hv.sign, hnear]⟩

/-- The far end of a sliver is an infinity, or the value of the exact unum of the next payload. -/
theorem exists_exact_far (hc : Canonical E u) (hsp : isSpecial E u = false) (hub : ubitOf E u = true) :
    ∃ v, Canonical E v ∧ ubitOf E v = false ∧
      (u2r E v).toNum = if signOf E u then mirror (farNum E u) else farNum E u := by
  cases hw : isWidest E u
  case true =>
    obtain ⟨hsp', hub', hs⟩ := infPattern_fields E (signOf E u)
    refine ⟨_, (infPattern_isNumber E (signOf E u)).1, hub', ?_⟩
    rw [u2r_of_special hsp', hs, infOf_toNum, farNum, if_pos hw, mirror_top]
  case false =>
    have hroom := payload_succ_lt hsp hw
    have hu : HasPayload E u (signOf E u) (payloadOf E u) true (esOf E u) (fsOf E u) := ⟨hc, rfl, rfl, hub, rfl, rfl⟩
    have hv := hu.inexact_add_ubitmask hroom
    have hsp' : isSpecial E (u + E.ubitmask) = false := by
      rw [Bool.eq_false_iff]
      intro hspecial
      have hpayload := payloadOf_of_isSpecial hspecial
      obtain ⟨hes, hfs, -, -⟩ := isSpecial_iff.1 hspecial
      rw [hv.payload, hv.es, hv.fs] at hpayload
      rw [hv.es] at hes
      rw [hv.fs] at hfs
      refine Bool.false_ne_true (hw.symm.trans ?_)
      have hlast := top_expo_payload (esOf E u) (fsOf E u)
      have htwo := two_le_two_pow_fsOf E u
      obtain ⟨hexpo, hfrac⟩ := fields_of_top_expo (E := E) (u := u) (f := 2 ^ fsOf E u - 2) (by omega) (by omega)
      exact isWidest_iff.2 ⟨hexpo, by rw [if_pos ⟨hes, hfs⟩, hfrac]⟩
    have hfar : farNum E u = nearNum E (u + E.ubitmask) := by
      rw [farNum, hw, if_neg Bool.false_ne_true, nearNum, hu.magRat_succ hv, ulpOf]
    exact ⟨_, hv.canonical, hv.ubit, by rw [u2r_toNum_signed hsp', hv.sign, hfar]⟩

/-- Both ends of a unum's interval are values of exact unums. -/
theorem u2g_ends_representable (hc : Canonical E u) (hnan : isNan E u = false) :
    Representable E (u2g E u).l ∧ Representable E (u2g E u).r := by
  cases hub : ubitOf E u
  case false =>
    rw [u2g_of_exact hub]
    exact ⟨⟨u, hc, hub, rfl⟩, ⟨u, hc, hub, rfl⟩⟩
  case true =>
    have hsp : isSpecial E u = false := by simpa [isNan, hub] using hnan
    obtain ⟨-, -, -, hl, hr⟩ := u2g_isSliver hsp hub
    obtain ⟨v, hvc, hvub, hv⟩ := exists_exact_near hc hsp hub
    obtain ⟨w, hwc, hwub, hw⟩ := exists_exact_far hc hsp hub
    rw [Representable, Representable, hl, hr]
    cases hs : signOf E u <;> rw [hs] at hv hw
    · exact ⟨⟨v, hvc, hvub, hv⟩, ⟨w, hwc, hwub, hw⟩⟩
    · exact ⟨⟨w, hwc, hwub, hw⟩, ⟨v, hvc, hvub, hv⟩⟩

theorem b2g_ends_representable {b : Ubound} (hb : CanonicalBound E b) (hnan : (b2g E b).nan = false) :
    Representable E (b2g E b).l ∧ Representable E (b2g E b).r := by
  cases hp : b.p
  case false =>
    rw [b2g_of_single hp] at hnan ⊢
    exact u2g_ends_representable hb.1 ((u2g_nan E _).symm.trans hnan)
  case true =>
    by_cases hends : (u2g E b.l).nan = true ∨ (u2g E b.r).nan = true
    · rw [b2g_of_nan hp hends] at hnan
      contradiction
    · rw [not_or, Bool.not_eq_true, Bool.not_eq_true] at hends
      rw [b2g_of_pair hp hends.1 hends.2]
      exact ⟨(u2g_ends_representable hb.1 ((u2g_nan E _).symm.trans hends.1)).1,
        (u2g_ends_representable hb.2 ((u2g_nan E _).symm.trans hends.2)).2⟩

/-- Negation keeps a finite end's encoding exact. -/
theorem r2u_neg_exact {p : Gnum} (hfin : p.inf = false) (hub : ubitOf E (r2u E p.val) = false) :
    ubitOf E (r2u E p.neg.val) = false := by
  have habs : |p.val.toRat| = |p.neg.val.toRat| := by
    rw [Gnum.neg, hfin, if_neg Bool.false_ne_true, fin, Dyad.toRat_norm, Dyad.toRat_neg, abs_neg]
  obtain ⟨_, ub, _, _, hp, hneg⟩ := agreeButSign_of_abs_eq (E := E) habs
  exact hneg.ubit.trans (hp.ubit.symm.trans hub)

theorem Gnum.inf_neg (p : Gnum) : p.neg.inf = p.inf := by
  unfold Gnum.neg
  cases hinf : p.inf
  · rfl
  · rw [if_pos rfl]
    split <;> rfl

end

/-! ### The nudged left end is no infinity and no NaN (44_unify.md R214) -/

section
variable {E : Env} {u : Unum}

theorem isSpecial_zero (E : Env) : isSpecial E 0 = false := by
  obtain ⟨-, he, -, -, hes, -⟩ := zeroPattern_hasFields E
  have hmk : mk E false 0 0 false 1 1 = 0 := by simp [mk]
  rw [hmk] at he hes
  exact isSpecial_eq_false_of_expo (by rw [he, hes]; decide)

theorem isSpecial_nudgeL (h : NonnegUnum E u) (hub : ubitOf E u = false) (hsp : isSpecial E u = false) (o : Bool) :
    isSpecial E (nudgeL E u o) = false := by
  have hpayload : HasPayload E u false (payloadOf E u) false (esOf E u) (fsOf E u) := ⟨h.1, h.2, rfl, hub, rfl, rfl⟩
  cases o
  case true =>
    have habove := hpayload.exact_add_ubitmask
    exact (isSpecial_congr habove.es habove.fs habove.payload).trans hsp
  case false =>
    rw [nudgeL, if_neg Bool.false_ne_true]
    cases hp : payloadOf E u with
    | zero =>
      rw [hp] at hpayload
      rw [hpayload.zero_sub_ubitmask]
      exact isSpecial_zero E
    | succ p =>
      rw [hp] at hpayload
      have hroom := hpayload.tagHolds.payload_lt
      exact (hpayload.exact_sub_ubitmask.finiteUnum_of_room hroom).notSpecial

theorem KeepsNumber.notSpecial {x : Unum} (h : KeepsNumber E u x) (hsp : isSpecial E u = false) :
    isSpecial E x = false := by
  rw [Bool.eq_false_iff]
  intro hx
  have hinf := congrArg Gnum.inf h.value
  rw [u2r_of_special hx, u2r_of_number hsp] at hinf
  cases hs : signOf E x <;> rw [hs] at hinf <;> cases hinf

/-- The unum the controller's loops start from. -/
theorem isSpecial_nudged {x : Dyad} (hneg : x.isNeg = false) (hub : ubitOf E (r2u E x) = false) (es' fs' : Nat)
    (o : Bool) : isSpecial E (nudgeL E (promoteTo E (r2u E x) es' fs') o) = false := by
  have hreal := r2u_realUnum E x
  have hkeeps := promoteTo_keepsNumber hreal.canonical hub es' fs'
  exact isSpecial_nudgeL ⟨hkeeps.canonical, hkeeps.sign.trans (hreal.sign.trans hneg)⟩ hkeeps.ubit
    (hkeeps.notSpecial hreal.notSpecial) o

theorem times_eq_iterate (step : Unum → Unum) (n : Nat) (v : Unum) : times step n v = step^[n] v := by
  induction n generalizing v with
  | zero => rfl
  | succ n ih => exact ih (step v)

theorem nudgeL_eq (E : Env) (v : Unum) (o : Bool) :
    nudgeL E v o = if o then v + 2 ^ (E.ess.toNat + E.fss.toNat) else v - 2 ^ (E.ess.toNat + E.fss.toNat) := by
  rw [nudgeL, ubitmask_eq]

theorem nudgeR_eq (E : Env) (v : Unum) (o : Bool) :
    nudgeR E v o = if o then v - 2 ^ (E.ess.toNat + E.fss.toNat) else v + 2 ^ (E.ess.toNat + E.fss.toNat) := by
  rw [nudgeR, ubitmask_eq]

end

/-! ### The interval the search is for (44_unify.md R212 steps 4 and 5) -/

/-- 0 among the extended numbers. -/
abbrev zeroNum : ExtNum := (((0 : ℚ) : WithTop ℚ) : ExtNum)

theorem zeroEnd_toNum : zeroEnd.toNum = zeroNum := by
  rw [zeroEnd, fin_toNum, Dyad.toRat_eq_zero_iff.2 rfl]

theorem cmpV_zeroEnd_lt_iff {p : Gnum} : cmpV p zeroEnd = .lt ↔ p.toNum < zeroNum := by
  rw [cmpV_eq_compare_toNum, compare_lt_iff_lt, zeroEnd_toNum]

theorem negativeOnly_iff {g : Gbnd} : negativeOnly g = true ↔ g.r.toNum ≤ zeroNum ∧ g.l.toNum < zeroNum := by
  rw [negativeOnly, Bool.and_eq_true, beq_iff_eq, cmpV_zeroEnd_lt_iff, bne_iff_ne, cmpV_eq_compare_toNum,
    compare_le_iff_le, zeroEnd_toNum]

theorem Dyad.toRat_ofNat (k : Nat) : (Dyad.ofNat k).toRat = k := by
  rw [Dyad.ofNat, Dyad.toRat_norm, Dyad.toRat_of_nonneg, zpow_zero, mul_one]

/-- Enclosing the closed point of a number is holding the number. -/
theorem encloses_point_iff {g : Gbnd} (h : g.nan = false) (x : Dyad) :
    encloses g (point (fin x false)) = true ↔ g.Holds ((x.toRat : WithTop ℚ) : ExtNum) := by
  rw [encloses_iff, Gbnd.holds_iff h, atNum, ← fin_toNum x false]
  rfl

theorem holdsSmall_iff {g : Gbnd} (h : g.nan = false) :
    holdsSmall g = true ↔ ∃ k : ℚ, (k = 0 ∨ k = 1 ∨ k = 2 ∨ k = 3) ∧ g.Holds ((k : WithTop ℚ) : ExtNum) := by
  simp only [holdsSmall, List.any_cons, List.any_nil, Bool.or_false, Bool.or_eq_true, encloses_point_iff h,
    Dyad.toRat_ofNat, or_and_right, exists_or, exists_eq_left, Nat.cast_zero, Nat.cast_one, Nat.cast_ofNat]

/-- The interval step 5 looks at: mirrored when the interval is negative only. -/
def oriented (g : Gbnd) : Gbnd := if negativeOnly g then negg g else g

theorem Gbnd.Holds.between {g : Gbnd} {x : ExtNum} (hx : g.Holds x) : g.l.toNum ≤ x ∧ x ≤ g.r.toNum := by
  obtain ⟨-, hl, hr⟩ := hx
  refine ⟨?_, ?_⟩
  · split at hl
    · exact hl.le
    · exact hl
  · split at hr
    · exact hr.le
    · exact hr

section
variable {g : Gbnd} (h : g.Proper)
include h

theorem Gbnd.Proper.oriented : (oriented g).Proper := by
  rw [Machine.oriented]
  split
  · exact h.negg
  · exact h

theorem Gbnd.Proper.left_le_right : g.l.toNum ≤ g.r.toNum := by
  obtain hlt | ⟨heq, -⟩ := Prod.Lex.toLex_le_toLex.1 h.ends_le
  · exact hlt.le
  · exact heq.le

/-- An interval from below 0 to above 0 holds 0. -/
theorem Gbnd.Proper.holds_zero (hl : g.l.toNum < zeroNum) (hr : zeroNum < g.r.toNum) : g.Holds zeroNum := by
  refine ⟨h.1, ?_, ?_⟩
  · split
    · exact hl
    · exact hl.le
  · split
    · exact hr
    · exact hr.le

/-- Step 5 skips exactly when 0, 1, 2 or 3 is an element, or the negative of one of a negative interval. -/
theorem skips_oriented_iff :
    Skips (oriented g) ↔ ∃ k : ℚ, (k = 0 ∨ k = 1 ∨ k = 2 ∨ k = 3) ∧
      (g.Holds ((k : WithTop ℚ) : ExtNum) ∨ (g.r.toNum ≤ zeroNum ∧ g.Holds (((-k : ℚ) : WithTop ℚ) : ExtNum))) := by
  have hlt {x y : ℚ} : ((x : WithTop ℚ) : ExtNum) ≤ ((y : WithTop ℚ) : ExtNum) ↔ x ≤ y :=
    coe_rat_strictMono.le_iff_le
  rw [Skips, cmpV_zeroEnd_lt_iff, holdsSmall_iff h.oriented.1]
  by_cases hneg : negativeOnly g = true
  · obtain ⟨hr, hl⟩ := negativeOnly_iff.1 hneg
    have hmirror : ¬ mirror g.r.toNum < zeroNum := by
      rw [not_lt, ← mirror_le_mirror, mirror_mirror]
      exact hr.trans_eq (by rw [mirror_rat, neg_zero])
    rw [oriented, if_pos hneg, negg_of_number h.1, Gnum.toNum_neg, or_iff_right hmirror, ← negg_of_number h.1]
    simp only [negg_holds h.1, mirror_rat]
    refine exists_congr fun k => and_congr_right fun hk => ⟨fun hx => .inr ⟨hr, hx⟩, ?_⟩
    rintro (hx | ⟨-, hx⟩)
    · have hle : k ≤ 0 := hlt.1 (hx.between.2.trans hr)
      obtain rfl : k = 0 := by
        obtain rfl | rfl | rfl | rfl := hk
        · rfl
        all_goals norm_num at hle
      rwa [neg_zero]
    · exact hx
  · rw [oriented, if_neg hneg]
    by_cases hl : g.l.toNum < zeroNum
    · have hr : zeroNum < g.r.toNum := not_le.1 fun hr => hneg (negativeOnly_iff.2 ⟨hr, hl⟩)
      exact iff_of_true (.inl hl) ⟨0, .inl rfl, .inl (h.holds_zero hl hr)⟩
    · rw [or_iff_right hl]
      refine exists_congr fun k => and_congr_right fun hk => ⟨.inl, ?_⟩
      rintro (hx | ⟨-, hx⟩)
      · exact hx
      · have hle : 0 ≤ -k := hlt.1 ((not_lt.1 hl).trans hx.between.1)
        obtain rfl : k = 0 := by
          obtain rfl | rfl | rfl | rfl := hk
          · rfl
          all_goals norm_num at hle
        rwa [neg_zero] at hx

end

/-- The lower end of the interval the search is for is a finite number that is encoded exactly. -/
structure SearchEnd (E : Env) (p : Gnum) : Prop where
  finite : p.inf = false
  exact : ubitOf E (r2u E p.val) = false

theorem Gbnd.OneInf.of_negg {g : Gbnd} (hnan : g.nan = false) (h : (negg g).OneInf) : g.OneInf := by
  rw [negg_of_number hnan] at h
  obtain ⟨hl, hr, hnum⟩ := h
  rw [Gnum.toNum_neg, Gnum.toNum_neg] at hnum
  refine ⟨(Gnum.inf_neg _).symm.trans hr, (Gnum.inf_neg _).symm.trans hl, ?_⟩
  rw [← mirror_mirror g.l.toNum, ← hnum, mirror_mirror]

/-- A well-formed interval from 0 up that is not one infinity starts at a finite number. -/
theorem left_finite_of_nonneg {g : Gbnd} (h : g.Proper) (hinf : ¬ g.OneInf) (hl : ¬ g.l.toNum < zeroNum) :
    g.l.inf = false := by
  rw [Bool.eq_false_iff]
  intro hlinf
  have htop : g.l.toNum = ((⊤ : WithTop ℚ) : ExtNum) := by
    have hnum := Gnum.toNum_of_inf hlinf
    split at hnum
    · exact absurd (hnum.trans_lt (WithBot.bot_lt_coe _)) hl
    · exact hnum
  have hrtop : g.r.toNum = ((⊤ : WithTop ℚ) : ExtNum) := top_le_iff.1 (htop.ge.trans h.left_le_right)
  have hrinf : g.r.inf = true := by
    cases hr : g.r.inf
    · rw [Gnum.toNum_of_finite hr] at hrtop
      exact absurd (WithBot.coe_injective hrtop) (WithTop.coe_ne_top)
    · rfl
  exact hinf ⟨hlinf, hrinf, htop.trans hrtop.symm⟩

theorem searchEnd_oriented {E : Env} {b : Ubound} (hb : CanonicalBound E b) (h : (b2g E b).Proper)
    (hinf : ¬ (b2g E b).OneInf) (hskip : ¬ Skips (oriented (b2g E b))) : SearchEnd E (oriented (b2g E b)).l := by
  obtain ⟨hrepl, hrepr⟩ := b2g_ends_representable hb h.1
  have hl : ¬ (oriented (b2g E b)).l.toNum < zeroNum := fun hlt => hskip (.inl (cmpV_zeroEnd_lt_iff.2 hlt))
  have hone : ¬ (oriented (b2g E b)).OneInf := by
    rw [oriented]
    split
    · exact fun hone => hinf (hone.of_negg h.1)
    · exact hinf
  have hfin := left_finite_of_nonneg h.oriented hone hl
  refine ⟨hfin, ?_⟩
  rw [oriented] at hfin ⊢
  split at hfin
  next hneg =>
    rw [if_pos hneg, negg_of_number h.1]
    rw [negg_of_number h.1] at hfin
    have hrfin := (Gnum.inf_neg _).symm.trans hfin
    exact r2u_neg_exact hrfin ((representable_iff_of_finite hrfin).1 hrepr)
  next hneg =>
    rw [if_neg hneg]
    exact (representable_iff_of_finite hfin).1 hrepl

/-! ### The arms of the candidate (44_unify.md R212 steps 6 to 9) -/

/-- The lower end is 0 and the upper end a number below 1. -/
abbrev ZeroCase (g : Gbnd) : Prop :=
  g.l.toNum = zeroNum ∧ g.r.inf = false ∧ g.r.toNum < (((1 : ℚ) : WithTop ℚ) : ExtNum)

/-- The lower end is an open maxreal. -/
abbrev FromMaxreal (E : Env) (g : Gbnd) : Prop :=
  g.l.opn = true ∧ g.l.toNum = (((maxreal E).toRat : WithTop ℚ) : ExtNum)

/-- The unum step 7 starts from. -/
def firstSliver (E : Env) (g : Gbnd) : Unum := nudgeL E (promoteTo E (r2u E g.l.val) E.esmax E.fsmax) g.l.opn

theorem firstSliver_eq (E : Env) (g : Gbnd) : firstSliver E g =
    let x := r2u E g.l.val
    let wide := (promf E)^[2 ^ E.fss.toNat - fsOf E x] ((prome E)^[2 ^ E.ess.toNat - esOf E x] x)
    if g.l.opn then wide + 2 ^ (E.ess.toNat + E.fss.toNat) else wide - 2 ^ (E.ess.toNat + E.fss.toNat) := by
  rw [firstSliver, nudgeL_eq, promoteTo, times_eq_iterate, times_eq_iterate]
  rfl

/-- The slivers step 8 compares. -/
def sliverPair (E : Env) (g : Gbnd) : Unum × Unum :=
  (nudgeL E (ppair E (r2u E g.l.val) (r2u E g.r.val)).1 g.l.opn,
    nudgeR E (ppair E (r2u E g.l.val) (r2u E g.r.val)).2 g.r.opn)

section
variable {E : Env} {g : Gbnd}

section
variable (hfin : g.l.inf = false)
include hfin

theorem zeroCase_iff :
    (g.l.val.isZero && !g.r.inf && g.r.val.cmp (Dyad.pow2 0) == .lt) = true ↔ ZeroCase g := by
  have hzero : g.l.val.isZero = true ↔ g.l.toNum = zeroNum := by
    rw [Gnum.toNum_of_finite hfin, coe_rat_strictMono.injective.eq_iff, Dyad.toRat_eq_zero_iff, Dyad.isZero, beq_iff_eq]
  rw [Bool.and_eq_true, Bool.and_eq_true, hzero, Bool.not_eq_true', beq_iff_eq, and_assoc]
  refine and_congr_right fun _ => and_congr_right fun hr => ?_
  rw [Dyad.cmp_eq_compare_toRat, compare_lt_iff_lt, Dyad.pow2_toRat, zpow_zero, Gnum.toNum_of_finite hr]
  exact coe_rat_strictMono.lt_iff_lt.symm

theorem fromMaxreal_iff : (g.l.opn && g.l.val.cmp (maxreal E) == .eq) = true ↔ FromMaxreal E g := by
  rw [Bool.and_eq_true, beq_iff_eq, Dyad.cmp_eq_compare_toRat, compare_eq_iff_eq, FromMaxreal,
    Gnum.toNum_of_finite hfin, coe_rat_strictMono.injective.eq_iff]

theorem candidate_of_zero (h : ZeroCase g) : candidate E g = ⟨some (zerocand E g.r.val), .zero, 0, 0⟩ :=
  if_pos ((zeroCase_iff hfin).2 h)

variable (h : ¬ ZeroCase g)
include h

theorem candidate_of_finite (hr : g.r.inf = false) : candidate E g = candidateFinite E g := by
  rw [candidate, if_neg (mt (zeroCase_iff hfin).1 h), hr, if_neg Bool.false_ne_true]

variable (hr : g.r.inf = true)
include hr

theorem candidate_of_closedInf (hopn : g.r.opn = false) : candidate E g = ⟨none, .closedinf, 0, 0⟩ := by
  rw [candidate, if_neg (mt (zeroCase_iff hfin).1 h), if_pos hr, candidateInf, if_pos hopn]

variable (hopn : g.r.opn = true)
include hopn

theorem candidate_of_maxreal (hmax : FromMaxreal E g) :
    candidate E g = ⟨some (openInfPattern E false), .satmax, 0, 0⟩ := by
  rw [candidate, if_neg (mt (zeroCase_iff hfin).1 h), if_pos hr, candidateInf, if_neg (by simp [hopn]),
    if_pos ((fromMaxreal_iff hfin).2 hmax)]

theorem candidate_of_openInf (hmax : ¬ FromMaxreal E g) :
    candidate E g = demoteToWidest E (esOf E (firstSliver E g) + fsOf E (firstSliver E g)) (firstSliver E g) 0 0 := by
  rw [candidate, if_neg (mt (zeroCase_iff hfin).1 h), if_pos hr, candidateInf, if_neg (by simp [hopn]),
    if_neg (mt (fromMaxreal_iff hfin).1 hmax)]
  rfl

end

theorem candidateFinite_of_same (h : (sliverPair E g).1 = (sliverPair E g).2) :
    candidateFinite E g = ⟨some (sliverPair E g).1, .nudge, 0, 0⟩ := if_pos h

theorem candidateFinite_of_ne (h : (sliverPair E g).1 ≠ (sliverPair E g).2) :
    candidateFinite E g = searchBoth E (sliverPair E g).1 (sliverPair E g).2 := if_neg h

end

end Sys2Proof.Machine
end

section
/-! PROOF. The runs of the unification controller against the algorithm's steps (44_unify.md R211 to R222, R228): what a
run reports of its candidate, and the report of every exit; O59. -/

namespace Sys2Proof.Machine

/-! ### From a candidate to the run (44_unify.md R212 step 10) -/

section
variable {E : Env} {b : Ubound} {g : Gbnd} {neg : Bool}

theorem unifyPositive_neg (E : Env) (b : Ubound) (g : Gbnd) (neg : Bool) : (unifyPositive E b g neg).neg = neg := by
  by_cases hskip : Skips g
  · rw [unifyPositive_of_skips hskip]
  cases hc : (candidate E g).unum with
  | none => rw [unifyPositive_of_none hskip hc]
  | some u =>
    cases hu : encloses (u2g E u) g
    · rw [unifyPositive_of_not_encloses hskip hc hu]
    · rw [unifyPositive_of_encloses hskip hc hu]

section
variable (hskip : ¬ Skips g)
include hskip

theorem unifyPositive_turns :
    (unifyPositive E b g neg).eiter = (candidate E g).eiter ∧
      (unifyPositive E b g neg).fiter = (candidate E g).fiter := by
  cases hc : (candidate E g).unum with
  | none =>
    rw [unifyPositive_of_none hskip hc]
    exact ⟨rfl, rfl⟩
  | some u =>
    cases hu : encloses (u2g E u) g
    · rw [unifyPositive_of_not_encloses hskip hc hu]
      exact ⟨rfl, rfl⟩
    · rw [unifyPositive_of_encloses hskip hc hu]
      exact ⟨rfl, rfl⟩

variable {x : UnifyExit} {ei fi : Nat}

theorem keeps_of_candidate (hc : candidate E g = ⟨none, x, ei, fi⟩) : (unifyPositive E b g neg).Keeps b x ei fi := by
  rw [unifyPositive_of_none hskip (by rw [hc]), hc]
  exact ⟨rfl, rfl, rfl, rfl⟩

theorem ends_of_candidate {u : Unum} (hc : candidate E g = ⟨some u, x, ei, fi⟩) :
    (unifyPositive E b g neg).Ends E b g u x ei fi := by
  have hunum : (candidate E g).unum = some u := by rw [hc]
  rw [Unified.Ends, unifyPositive_neg]
  refine ⟨fun hu => ?_, fun hu => ?_⟩
  · rw [unifyPositive_of_encloses hskip hunum hu, hc]
    exact ⟨rfl, rfl, rfl, rfl⟩
  · rw [unifyPositive_of_not_encloses hskip hunum hu, hc]
    exact ⟨rfl, rfl, rfl, rfl⟩

end

end

/-! ### The runs, step by step -/

section
variable {E : Env} {b : Ubound} {g : Gbnd} {neg : Bool} (hskip : ¬ Skips g) (hend : SearchEnd E g.l)
include hskip hend

theorem isSpecial_firstSliver : isSpecial E (firstSliver E g) = false :=
  isSpecial_nudged (isNeg_of_not_skips hskip) hend.exact _ _ _

theorem isSpecial_sliverPair : isSpecial E (sliverPair E g).1 = false :=
  isSpecial_nudged (isNeg_of_not_skips hskip) hend.exact _ _ _

/-- Step 7: the loops of the rule are those of the run. -/
theorem runsOpenInf (hzero : ¬ ZeroCase g) (hr : g.r.inf = true) (hopn : g.r.opn = true) (hmax : ¬ FromMaxreal E g) :
    (unifyPositive E b g neg).RunsOpenInf E b g := by
  obtain ⟨n, m, hrun, hn, hm, -, -⟩ := demoteToWidest_spec 0 0 (isSpecial_firstSliver hskip hend) le_rfl
  rw [← candidate_of_openInf hend.finite hzero hr hopn hmax, Nat.zero_add, Nat.zero_add] at hrun
  have hturns := unifyPositive_turns (E := E) (b := b) (neg := neg) hskip
  have hcount : (candidate E g).eiter = n ∧ (candidate E g).fiter = m := by
    rw [hrun, widestCandidate]
    split <;> exact ⟨rfl, rfl⟩
  rw [hcount.1, hcount.2] at hturns
  rw [Unified.RunsOpenInf, hturns.1, hturns.2]
  simp only [← firstSliver_eq]
  refine ⟨hn, hm, fun hat => ?_, fun hat => ?_⟩
  · rw [widestCandidate, if_pos (isWidest_iff_atWidest.2 hat)] at hrun
    exact ends_of_candidate hskip hrun
  · rw [widestCandidate, if_neg (mt isWidest_iff_atWidest.1 hat)] at hrun
    exact keeps_of_candidate hskip hrun

/-- Steps 8 and 9: the loops of the rule are those of the run. -/
theorem runsSearch (hzero : ¬ ZeroCase g) (hr : g.r.inf = false) : (unifyPositive E b g neg).RunsSearch E b g := by
  have hcand := candidate_of_finite (E := E) hend.finite hzero hr
  rw [Unified.RunsSearch]
  simp only [← nudgeL_eq, ← nudgeR_eq]
  refine ⟨fun heq => ?_, fun hne => ?_⟩
  · exact ends_of_candidate hskip (hcand.trans (candidateFinite_of_same heq))
  · obtain ⟨n, m, hrun, hn, hm, -, -⟩ := searchBoth_spec (sliverPair E g).2 (isSpecial_sliverPair hskip hend)
    rw [← candidateFinite_of_ne hne, ← hcand] at hrun
    have hturns := unifyPositive_turns (E := E) (b := b) (neg := neg) hskip
    have hcount : (candidate E g).eiter = n ∧ (candidate E g).fiter = m := by
      rw [hrun, searchCandidate]
      split <;> exact ⟨rfl, rfl⟩
    rw [hturns.1, hturns.2, hcount.1, hcount.2]
    refine ⟨hn, hm, fun heq => ?_, fun hne => ?_⟩
    · rw [searchCandidate] at hrun
      exact ends_of_candidate hskip (hrun.trans (if_pos heq))
    · rw [searchCandidate] at hrun
      exact keeps_of_candidate hskip (hrun.trans (if_neg hne))

theorem runsCandidate : (unifyPositive E b g neg).RunsCandidate E b g := by
  rw [Unified.RunsCandidate]
  have hmaxreal : (2 : ℚ) ^ (2 ^ (2 ^ E.ess.toNat - 1) : Int) * (2 - 2 ^ (1 - ((2 ^ E.fss.toNat : Nat) : Int))) =
      (maxreal E).toRat := (maxreal_toRat E).symm
  simp only [hmaxreal]
  refine ⟨fun hzero => ?_, fun hzero hr hopn => ?_, fun hzero hr hopn hmax => ?_, fun hzero hr hopn hmax => ?_,
    fun hzero hr => ?_⟩
  · exact ends_of_candidate hskip (candidate_of_zero hend.finite hzero)
  · exact keeps_of_candidate hskip (candidate_of_closedInf hend.finite hzero hr hopn)
  · exact ⟨_, openInfPattern_hasFields E false,
      ends_of_candidate hskip (candidate_of_maxreal hend.finite hzero hr hopn hmax)⟩
  · exact runsOpenInf hskip hend hzero hr hopn hmax
  · exact runsSearch hskip hend hzero hr

end

/-! ### The report of a run (44_unify.md R211, R222, R228) -/

/-- A candidate's exit says whether there is a unum, and the turns are below the greatest sizes. -/
structure Candidate.Sound (E : Env) (c : Candidate) : Prop where
  found : c.unum ≠ none → c.exit ∈ [.zero, .nudge, .satmax, .openinf, .search]
  missing : c.unum = none → c.exit ∈ [.fail, .closedinf]
  eiter : c.eiter < E.esmax
  fiter : c.fiter < E.fsmax

section
variable {E : Env} {x : UnifyExit} {ei fi : Nat} (hei : ei < E.esmax) (hfi : fi < E.fsmax)
include hei hfi

theorem Candidate.Sound.of_some (u : Unum) (hx : x ∈ [UnifyExit.zero, .nudge, .satmax, .openinf, .search]) :
    Candidate.Sound E ⟨some u, x, ei, fi⟩ := ⟨fun _ => hx, fun h => absurd h (Option.some_ne_none u), hei, hfi⟩

theorem Candidate.Sound.of_none (hx : x ∈ [UnifyExit.fail, .closedinf]) : Candidate.Sound E ⟨none, x, ei, fi⟩ :=
  ⟨fun h => absurd rfl h, fun _ => hx, hei, hfi⟩

end

theorem candidate_sound {E : Env} {g : Gbnd} (hskip : ¬ Skips g) (hend : SearchEnd E g.l) :
    Candidate.Sound E (candidate E g) := by
  have hem : 0 < E.esmax := Nat.two_pow_pos _
  have hfm : 0 < E.fsmax := Nat.two_pow_pos _
  by_cases hzero : ZeroCase g
  · rw [candidate_of_zero hend.finite hzero]
    exact .of_some hem hfm _ (by simp)
  cases hr : g.r.inf
  case false =>
    rw [candidate_of_finite hend.finite hzero hr]
    by_cases hsame : (sliverPair E g).1 = (sliverPair E g).2
    · rw [candidateFinite_of_same hsame]
      exact .of_some hem hfm _ (by simp)
    · obtain ⟨n, m, hrun, -, -, hn, hm⟩ := searchBoth_spec (sliverPair E g).2 (isSpecial_sliverPair hskip hend)
      have hn' := hn.trans_le (esOf_le E _)
      have hm' := hm.trans_le (fsOf_le E _)
      rw [candidateFinite_of_ne hsame, hrun, searchCandidate]
      split
      · exact .of_some hn' hm' _ (by simp)
      · exact .of_none hn' hm' (by simp)
  case true =>
    cases hopn : g.r.opn
    case false =>
      rw [candidate_of_closedInf hend.finite hzero hr hopn]
      exact .of_none hem hfm (by simp)
    case true =>
      by_cases hmax : FromMaxreal E g
      · rw [candidate_of_maxreal hend.finite hzero hr hopn hmax]
        exact .of_some hem hfm _ (by simp)
      · obtain ⟨n, m, hrun, -, -, hn, hm⟩ := demoteToWidest_spec 0 0 (isSpecial_firstSliver hskip hend) le_rfl
        have hn' := hn.trans_le (esOf_le E _)
        have hm' := hm.trans_le (fsOf_le E _)
        rw [candidate_of_openInf hend.finite hzero hr hopn hmax, hrun, Nat.zero_add, Nat.zero_add, widestCandidate]
        split
        · exact .of_some hn' hm' _ (by simp)
        · exact .of_none hn' hm' (by simp)

/-- What the exit of a run says of the bound, the mirroring and the turns. -/
structure Unified.Reports (r : Unified) (E : Env) (b : Ubound) : Prop where
  neg : r.exit ∈ [.single, .nanpass, .infpass, .illpass, .samept] → r.neg = false
  noTurn : r.exit ∈ [.single, .nanpass, .infpass, .illpass, .samept, .skip] → r.eiter = 0 ∧ r.fiter = 0
  kept : r.exit ∈ [.single, .nanpass, .infpass, .illpass, .skip, .fail, .closedinf] → r.bound = b
  single : r.exit ∈ [.samept, .zero, .nudge, .satmax, .openinf, .search] → r.bound.p = false ∧ r.bound.r = 0
  eiter : r.eiter < E.esmax
  fiter : r.fiter < E.fsmax

theorem passes_reports (E : Env) (b : Ubound) {x : UnifyExit} (hx : x ∈ [.single, .nanpass, .infpass, .illpass]) :
    (b.passes x).Reports E b := by
  refine ⟨fun _ => rfl, fun _ => ⟨rfl, rfl⟩, fun _ => rfl, fun h => ?_, Nat.two_pow_pos _, Nat.two_pow_pos _⟩
  change x ∈ _ at h
  cases x <;> simp at hx h

theorem fewerBits_reports (E : Env) (b : Ubound) : ((fewerBits E b).passes .samept).Reports E b :=
  ⟨fun _ => rfl, fun _ => ⟨rfl, rfl⟩, fun h => by simp [Ubound.passes] at h, fun _ => ⟨rfl, rfl⟩, Nat.two_pow_pos _,
    Nat.two_pow_pos _⟩

section
variable {E : Env} {b : Ubound} {ei fi : Nat} (hei : ei < E.esmax) (hfi : fi < E.fsmax)
include hei hfi

/-- A search that found nothing leaves the bound. -/
theorem missing_reports {x : UnifyExit} (hx : x ∈ [UnifyExit.fail, .closedinf]) (neg : Bool) :
    Unified.Reports ⟨b, x, ei, fi, neg⟩ E b := by
  refine ⟨fun h => ?_, fun h => ?_, fun _ => rfl, fun h => ?_, hei, hfi⟩ <;> cases x <;> simp at hx h

/-- A search that found a candidate gives a singleton. -/
theorem found_reports {x : UnifyExit} (hx : x ∈ [UnifyExit.zero, .nudge, .satmax, .openinf, .search]) (neg : Bool)
    (u : Unum) : Unified.Reports ⟨single u, x, ei, fi, neg⟩ E b := by
  refine ⟨fun h => ?_, fun h => ?_, fun h => ?_, fun _ => ⟨rfl, rfl⟩, hei, hfi⟩ <;> cases x <;> simp at hx h

end

theorem skip_reports (E : Env) (b : Ubound) (neg : Bool) : Unified.Reports ⟨b, .skip, 0, 0, neg⟩ E b :=
  ⟨fun h => by simp at h, fun _ => ⟨rfl, rfl⟩, fun _ => rfl, fun h => by simp at h, Nat.two_pow_pos _,
    Nat.two_pow_pos _⟩

section
variable {E : Env} {b : Ubound} {g : Gbnd} {neg : Bool}

theorem unifyPositive_reports (hend : ¬ Skips g → SearchEnd E g.l) : (unifyPositive E b g neg).Reports E b := by
  by_cases hskip : Skips g
  · rw [unifyPositive_of_skips hskip]
    exact skip_reports E b neg
  obtain ⟨hfound, hmissing, hei, hfi⟩ := candidate_sound hskip (hend hskip)
  cases hc : (candidate E g).unum with
  | none =>
    rw [unifyPositive_of_none hskip hc]
    exact missing_reports hei hfi (hmissing hc) neg
  | some u =>
    have hx := hfound (by rw [hc]; exact Option.some_ne_none u)
    cases hu : encloses (u2g E u) g
    · rw [unifyPositive_of_not_encloses hskip hc hu]
      exact missing_reports hei hfi (by simp) neg
    · rw [unifyPositive_of_encloses hskip hc hu]
      exact found_reports hei hfi hx neg _

/-- Only step 5 exits with SKIP. -/
theorem unifyPositive_exit_eq_skip_iff (hend : ¬ Skips g → SearchEnd E g.l) :
    (unifyPositive E b g neg).exit = .skip ↔ Skips g := by
  refine ⟨fun hexit => ?_, fun h => by rw [unifyPositive_of_skips h]⟩
  by_contra hskip
  obtain ⟨hfound, hmissing, -, -⟩ := candidate_sound hskip (hend hskip)
  cases hc : (candidate E g).unum with
  | none =>
    rw [unifyPositive_of_none hskip hc] at hexit
    have hx := hmissing hc
    rw [show (candidate E g).exit = .skip from hexit] at hx
    simp at hx
  | some u =>
    have hx := hfound (by rw [hc]; exact Option.some_ne_none u)
    cases hu : encloses (u2g E u) g
    · rw [unifyPositive_of_not_encloses hskip hc hu] at hexit
      cases hexit
    · rw [unifyPositive_of_encloses hskip hc hu] at hexit
      rw [show (candidate E g).exit = .skip from hexit] at hx
      simp at hx

end

/-! ### The runs of `unify` -/

section
variable {E : Env} {b : Ubound}

/-- Past the exits of steps 1 to 3 the run is that of the interval, mirrored when it is negative only. -/
theorem unify_of_search (hp : b.p = true) (h : (b2g E b).Proper) (hinf : ¬ (b2g E b).OneInf)
    (hdiff : ¬ identical (u2g E b.l) (u2g E b.r) = true) :
    unify E b = unifyPositive E b (oriented (b2g E b)) (negativeOnly (b2g E b)) := by
  rw [unify_of_distinct hp h.1 hinf h.2 hdiff, oriented]
  cases negativeOnly (b2g E b) <;> rfl

theorem unify_reports (hb : CanonicalBound E b) : (unify E b).Reports E b := by
  cases hp : b.p
  case false =>
    rw [unify_of_single hp]
    exact passes_reports E b (by simp)
  cases hnan : (b2g E b).nan
  case true =>
    rw [unify_of_nan hp hnan]
    exact passes_reports E b (by simp)
  by_cases hinf : (b2g E b).OneInf
  · rw [unify_of_oneInf hp hnan hinf]
    exact passes_reports E b (by simp)
  cases hwell : illformed (b2g E b)
  case true =>
    rw [unify_of_illformed hp hnan hinf hwell]
    exact passes_reports E b (by simp)
  by_cases hsame : identical (u2g E b.l) (u2g E b.r) = true
  · rw [unify_of_same hp hnan hinf hwell hsame]
    exact fewerBits_reports E b
  rw [unify_of_search hp ⟨hnan, hwell⟩ hinf hsame]
  exact unifyPositive_reports (searchEnd_oriented hb ⟨hnan, hwell⟩ hinf)

end

/-- Settles O59. -/
theorem unifyExits : Obligations.UnifyExits := by
  unfold Obligations.UnifyExits
  refine ⟨by simp [UnifyExit.code], fun E b hb => ?_⟩
  intro r g bothInf same holds
  obtain ⟨hneg, hnoTurn, hkept, hsingle, hei, hfi⟩ := unify_reports hb
  refine ⟨fun hp => ?_, fun hp hnan => ?_, fun hp hnan hinf => ?_, fun hp hnan hinf hill => ?_,
    fun hp h hinf hsame => ?_, fun hp h hinf hsame => ?skip, fun hp h hinf hsame => ?runs, hneg, hnoTurn, hkept,
    hsingle, Nat.le_sub_one_of_lt hei, Nat.le_sub_one_of_lt hfi⟩
  · exact congrArg Unified.exit (unify_of_single hp)
  · exact congrArg Unified.exit (unify_of_nan hp hnan)
  · exact congrArg Unified.exit (unify_of_oneInf hp hnan hinf)
  · exact congrArg Unified.exit (unify_of_illformed hp hnan hinf hill)
  · have hrun := unify_of_same hp h.1 hinf h.2 hsame
    exact ⟨congrArg Unified.exit hrun, congrArg Unified.bound hrun⟩
  case skip =>
    have hrun : r = unifyPositive E b (oriented g) (negativeOnly g) := unify_of_search hp h hinf hsame
    rw [hrun, unifyPositive_exit_eq_skip_iff (searchEnd_oriented hb h hinf)]
    exact skips_oriented_iff h
  case runs =>
    have hrun : r = unifyPositive E b (oriented g) (negativeOnly g) := unify_of_search hp h hinf hsame
    have hmirrored : r.neg = negativeOnly g := by rw [hrun, unifyPositive_neg]
    refine ⟨by rw [hmirrored]; exact negativeOnly_iff, fun hexit => ?_⟩
    have hskip : ¬ Skips (oriented g) := by
      rwa [hrun, Ne, unifyPositive_exit_eq_skip_iff (searchEnd_oriented hb h hinf)] at hexit
    rw [hmirrored, hrun]
    exact runsCandidate hskip (searchEnd_oriented hb h hinf hskip)

end Sys2Proof.Machine
end
